-- ==== Sys2Proof/Word.lean ====
section
/-! DEFINITION. The widths of PINSEQ's words (spec 00_scope R5, 30_encoding R60 to R62), the sentinel
pin, the nine logical signals, and the five fields of a format C word. No operation stands here. -/

namespace Sys2Proof

/-- A pin-index field, `PINW = 8` bits (10_state R12). -/
abbrev PinIdx := BitVec 8

/-- A command word, `CMDW = 48` bits (30_encoding R60). -/
abbrev CmdWord := BitVec 48

/-- A response word, `RSPW = 40` bits (30_encoding R62). -/
abbrev RspWord := BitVec 40

/-- The sentinel "not configured"; `ABSENT` is the slot form of it, with the same encoding
(10_state R12, R19). -/
def noPin : PinIdx := 0xFF

/-- The nine logical signals, in the order of the spec's register numbers (10_state R11). -/
inductive Signal where
  | tck | tms | tdi | tdo | trst | srst | blink | swclk | swdio
  deriving DecidableEq, Repr

/-- The fields below the opcode of a format C command (30_encoding R60, R61): the argument count
HOST supplied and the four argument bytes. A byte beyond the count is carried and ignored. -/
structure CfgArgs where
  argc : BitVec 8
  a0 : PinIdx
  a1 : PinIdx
  a2 : PinIdx
  a3 : PinIdx
  deriving DecidableEq, Repr

end Sys2Proof
end

