-- ==== Sys2Proof/Config.lean ====
section
/-! DEFINITION. What is fixed for one machine (the parameters of spec 00_scope R5), the vocabulary of
the observation (R9), and the free values: constants with no body, of which no proof can know
anything. Log entries 1 to 8. -/

namespace Sys2Proof

/-- The two directions `PinSetDir` takes (20_memory R41). -/
inductive Drive where
  | input | output
  deriving DecidableEq, Repr

/-- A pin event of TRACE (00_scope R9). `drv` lists the pads updated at once, by rising pin index
(log entry 25). -/
inductive Event where
  | dir (p : Nat) (d : Drive)
  | drv (updates : List (Nat × Bool))
  | smp (p : Nat) (b : Bool)
  | dly (n : Nat)
  deriving DecidableEq, Repr

/-- Which predicate validates TDO (44_lifecycle R141, 90_conflicts C3). -/
inductive TdoCheck where
  | valid | outCapable
  deriving DecidableEq, Repr

/-- `SWD_WRITE_ORDER` (42_swd_primitives R117): `either` is the spec's OPEN, both orders admitted at
every SWD_WRITE; the other two fix one of the orders it admits. -/
inductive SwdOrder where
  | either | clockFirst | dataFirst
  deriving DecidableEq, Repr

/-- Who answers the samples of pads (10_state R26): unconstrained draws, the named environment
LOOPBACK, or a list of ENV's next answers, oldest first, followed by draws (log entry 5). -/
inductive Env where
  | free
  | loopback
  | script (answers : List Bool)
  deriving DecidableEq, Repr

/-- The parameters of 00_scope R5 that a machine fixes. `validPins` and `outPins` are what the
platform's two predicates list; Machine/Ops.lean builds the predicates so that R5's implications
hold of every value (log entry 1). -/
structure Params where
  /-- `NPINS`. -/
  npins : Nat
  /-- the indices the platform calls usable -/
  validPins : List Nat
  /-- the indices the platform calls output-capable -/
  outPins : List Nat
  /-- `TDO_CHECK`. -/
  tdoCheck : TdoCheck
  /-- `TRST_ASSERT_LEVEL`. -/
  trstAssertLevel : Bool
  /-- `SRST_ASSERT_LEVEL`. -/
  srstAssertLevel : Bool
  /-- `SWD_WRITE_ORDER`. -/
  swdWriteOrder : SwdOrder
  /-- `KHZ_RESET`. -/
  khzReset : BitVec 32
  /-- `DELAY_COUNT`. -/
  delayCount : Nat
  deriving DecidableEq, Repr

/-- `NPINS - 1`, open (00_scope R5: `1 <= NPINS <= 255`). -/
opaque Config.npinsLessOne : Fin 255

/-- The platform's usable pin indices, open (00_scope R5). -/
opaque Config.validPins : List Nat

/-- The platform's output-capable pin indices, open (00_scope R5). -/
opaque Config.outPins : List Nat

/-- `KHZ_RESET - 1`, open: `KHZ_RESET` is any non-zero 32-bit value (10_state R27; log entry 2). -/
opaque Config.khzResetLessOne : Fin 4294967295

/-- `DELAY_COUNT`, open (10_state R28; log entry 3). -/
opaque Config.delayCount : Nat

/-- FREE VALUE. The latch of a pin that nothing has written since reset number `epoch`
(10_state R25, 93 U8; log entry 4). -/
opaque Config.lvlReset : (epoch : Nat) → (pin : Nat) → Bool

/-- FREE VALUE. ENV's answer to the sample of an undriven pad; it may depend on the whole trace so
far (00_scope R9, 10_state R26, 93 U12; log entry 5). -/
opaque Config.padIn : (epoch : Nat) → (trace : List Event) → (pin : Nat) → Bool

/-- FREE VALUE. What a level read of a pin that is an output returns (20_memory R43, 93 U3; log
entry 6). -/
opaque Config.drivenRead : (epoch : Nat) → (trace : List Event) → (pin : Nat) → Bool

/-- FREE VALUE. Which of the two writes of an SWD_WRITE comes first (42_swd_primitives R117, 93 U10;
log entry 7). -/
opaque Config.swdClockFirst : (epoch : Nat) → (trace : List Event) → Bool

/-- FREE VALUE. The latch of a pin to which one bundle write gives two different bits (20_memory
R44, 93 U7; log entry 8). -/
opaque Config.sharedPinLevel : (epoch : Nat) → (trace : List Event) → (pin : Nat) → Bool

/-- The parameters of the machine: the open ones free, the others at the value the spec takes
(00_scope R5, 92 D11, D17, D23). -/
def Config.params : Params where
  npins := Config.npinsLessOne.val + 1
  validPins := Config.validPins
  outPins := Config.outPins
  tdoCheck := .valid
  trstAssertLevel := false
  srstAssertLevel := false
  swdWriteOrder := .either
  khzReset := BitVec.ofNat 32 (Config.khzResetLessOne.val + 1)
  delayCount := Config.delayCount

end Sys2Proof
end

