-- ==== Sys2Proof/Machine/PinMap.lean ====
section
/-! DEFINITION. Per-pin data as a list of (pin, value) pairs in ONE canonical form: pins strictly
rising, so no pin twice. A pin that is not listed has the value its reader gives an unlisted pin
(log entry 30). PINSEQ has no memory; the pin space stands in its place (spec 20_memory R40). -/

namespace Sys2Proof.Machine

/-- Values by pin index. -/
abbrev PinMap (α : Type) := List (Nat × α)

/-- The canonical form: strictly rising pins. -/
abbrev PinMap.WF {α : Type} (m : PinMap α) : Prop := m.Pairwise (fun a b => a.1 < b.1)

/-- The listed value of a pin. -/
def PinMap.get {α : Type} : PinMap α → Nat → Option α
  | [], _ => none
  | (q, b) :: m, p => if p = q then some b else PinMap.get m p

/-- The map with one pin's value replaced or inserted in its place. -/
def PinMap.set {α : Type} : PinMap α → Nat → α → PinMap α
  | [], p, a => [(p, a)]
  | (q, b) :: m, p, a =>
    if p < q then (p, a) :: (q, b) :: m
    else if p = q then (p, a) :: m
    else (q, b) :: PinMap.set m p a

/-- All the updates of a list, the first one first. -/
def PinMap.setAll {α : Type} (m : PinMap α) (updates : List (Nat × α)) : PinMap α :=
  updates.foldl (fun acc e => PinMap.set acc e.1 e.2) m

end Sys2Proof.Machine
end

