-- ==== Sys2Proof/Machine/State.lean ====
section
/-! DEFINITION. PINSEQ's state as plain data (spec 10_state R10 to R32), the inputs it samples, the
two ports and the observation (00_scope R8, R9), the reasons a step can stop, and the state right
after reset (R31, 70_reset R200). -/

namespace Sys2Proof.Machine

/-- `LIFE` (10_state R16). `validated` is held only inside INIT. -/
inductive Life where
  | unconfigured | validated | active | shutdown
  deriving DecidableEq, Repr

/-- The nine pin-assignment registers `PA[s]` (10_state R11). -/
structure PinRegs where
  tck : PinIdx
  tms : PinIdx
  tdi : PinIdx
  tdo : PinIdx
  trst : PinIdx
  srst : PinIdx
  blink : PinIdx
  swclk : PinIdx
  swdio : PinIdx
  deriving DecidableEq, Repr

/-- The whole state of PINSEQ (10_state R10), then its inputs, its ports, the observation, and the
model's own fields. -/
structure State where
  /-- `PA[s]` (R11 to R14). -/
  pa : PinRegs
  /-- `LIFE` (R16). -/
  life : Life
  /-- `JTAG_ON` (R17). -/
  jtagOn : Bool
  /-- `SWD_ON` (R17). -/
  swdOn : Bool
  /-- `OB_ALLOC` (R19). -/
  obAlloc : Bool
  /-- `OSLOT[0..5]`: TCK, TDI, TMS, TRST, SRST, BLINK (R19 to R21). -/
  oslot : Vector PinIdx 6
  /-- `IB_ALLOC` (R22). -/
  ibAlloc : Bool
  /-- `ISLOT[0]` (R22). -/
  islot : PinIdx
  /-- `DIR[p]` of the pins PINSEQ has given a direction; an unlisted pin is `UNSET` (R24). -/
  dir : PinMap Drive
  /-- `LVL[p]` of the pins written since reset; an unlisted pin holds its reset draw (R25). -/
  lvl : PinMap Bool
  /-- `KHZ` (R27). -/
  khz : BitVec 32
  /-- `DELAY_CNT` (R28). -/
  delayCnt : Nat
  /-- `TRACE`, oldest event first (00_scope R9). -/
  trace : List Event
  /-- The response words given so far, oldest first (00_scope R9; log entry 13). -/
  responses : List RspWord
  /-- The command port: the word HOST presents, if any (00_scope R8; log entry 13). -/
  cmd : Option CmdWord
  /-- The reset input (92 D31; log entry 15). -/
  resetIn : Bool
  /-- Input `TR_JTAG` (R18). -/
  trJtag : Bool
  /-- Input `TR_SWD` (R18). -/
  trSwd : Bool
  /-- Input `AllocOutOK` (44_lifecycle R146). -/
  allocOutOK : Bool
  /-- Input `AllocInOK` (44_lifecycle R146). -/
  allocInOK : Bool
  /-- MODEL'S OWN: who answers samples (log entry 5). -/
  env : Env
  /-- MODEL'S OWN: the parameters of the machine; no step changes them (log entry 1). -/
  params : Params
  /-- MODEL'S OWN: how many resets there were, an argument of the free values (log entry 15). -/
  epoch : Nat
  deriving DecidableEq, Repr

/-- Why the machine stops. -/
inductive Fault where
  /-- Raised by `PinSetDir`, `PinSetLevel`, `PinGetLevel` on a pin the platform calls unusable: out
  of the block's contract (20_memory R41, 93 U6). Safe: the model stops where the platform may go
  on. -/
  | pinNotValid (p : PinIdx)
  /-- Raised by `PinSetDir(p, OUT)` on a pin that is not output-capable (20_memory R41, 93 U6).
  Safe: the model stops where the platform may go on. -/
  | pinNotOutCapable (p : PinIdx)
  /-- Raised by `BundleWrite` while `OB_ALLOC = 0`, which it needs to be 1 (20_memory R44); no state
  a session reaches raises it (log entry 10). Safe. -/
  | noOutputBundle
  /-- Raised by `BundleRead` while `IB_ALLOC = 0`, which it needs to be 1 (20_memory R45); no state
  a session reaches raises it (log entry 10). Safe. -/
  | noInputBundle
  deriving DecidableEq, Repr

/-- Why an instruction has no meaning. -/
inductive Refusal where
  /-- Raised by exec's arm of an instruction not modelled yet; no arm raises it. Safe. -/
  | notModelled (mnemonic : String)
  deriving DecidableEq, Repr

/-- The registers of 10_state R31 right after reset: every signal unassigned. -/
def PinRegs.reset : PinRegs where
  tck := noPin
  tms := noPin
  tdi := noPin
  tdo := noPin
  trst := noPin
  srst := noPin
  blink := noPin
  swclk := noPin
  swdio := noPin

/-- The machine right after reset (10_state R31, 70_reset R200): the command port is empty, so
PINSEQ waits for the first command (R202). The input lines at 0 are log entry 14. -/
def State.reset : State where
  pa := PinRegs.reset
  life := .unconfigured
  jtagOn := false
  swdOn := false
  obAlloc := false
  oslot := #v[noPin, noPin, noPin, noPin, noPin, noPin]
  ibAlloc := false
  islot := noPin
  dir := []
  lvl := []
  khz := Config.params.khzReset
  delayCnt := Config.params.delayCount
  trace := []
  responses := []
  cmd := none
  resetIn := false
  trJtag := false
  trSwd := false
  allocOutOK := false
  allocInOK := false
  env := .free
  params := Config.params
  epoch := 0

end Sys2Proof.Machine
end

