-- ==== Sys2Proof/Machine/Operands.lean ====
section
/-! DEFINITION. Operand and result forms: reading and writing a pin-assignment register (spec 10_state
R11), the pin bytes of a response (30_encoding R64), status codes and the response word (R62, R63),
bundle masks (10_state R20), reset levels (41_jtag R103) and zero extension (43_speed R135). -/

namespace Sys2Proof.Machine

/-- `PA[s]` (10_state R11). -/
def PinRegs.get (r : PinRegs) : Signal → PinIdx
  | .tck => r.tck
  | .tms => r.tms
  | .tdi => r.tdi
  | .tdo => r.tdo
  | .trst => r.trst
  | .srst => r.srst
  | .blink => r.blink
  | .swclk => r.swclk
  | .swdio => r.swdio

/-- `PA[s] <- v`: any value is stored unchecked (10_state R12). -/
def PinRegs.set (r : PinRegs) (s : Signal) (v : PinIdx) : PinRegs :=
  match s with
  | .tck => { r with tck := v }
  | .tms => { r with tms := v }
  | .tdi => { r with tdi := v }
  | .tdo => { r with tdo := v }
  | .trst => { r with trst := v }
  | .srst => { r with srst := v }
  | .blink => { r with blink := v }
  | .swclk => { r with swclk := v }
  | .swdio => { r with swdio := v }

/-- `PA[s]` is assigned (10_state R12). -/
def PinRegs.assigned (r : PinRegs) (s : Signal) : Bool := r.get s != noPin

/-- Several registers in one step, each from its own argument (40_pin_config R80). -/
def PinRegs.setAll (r : PinRegs) (updates : List (Signal × PinIdx)) : PinRegs :=
  updates.foldl (fun acc e => acc.set e.1 e.2) r

/-- The pin arguments `a0` to `a3`, in order (30_encoding R60). -/
def cfgPins (c : CfgArgs) : List PinIdx := [c.a0, c.a1, c.a2, c.a3]

/-- Pin values from the top byte of `data` down, the rest zero (30_encoding R64, 40_pin_config R80). -/
def packPins (ps : List PinIdx) : BitVec 32 :=
  ps.getD 0 0 ++ ps.getD 1 0 ++ ps.getD 2 0 ++ ps.getD 3 0

/-- The status codes by name (30_encoding R63). -/
inductive Status where
  | ok | errSyntax | errValidation | errUnsupportedSpeed | errResource | errUnavailable | errIllegal
  deriving DecidableEq, Repr

/-- The status codes (30_encoding R63). -/
def Status.code : Status → BitVec 8
  | .ok => 0x00
  | .errSyntax => 0x01
  | .errValidation => 0x02
  | .errUnsupportedSpeed => 0x03
  | .errResource => 0x04
  | .errUnavailable => 0x05
  | .errIllegal => 0x06

/-- The response word `{status, data}` (30_encoding R62). -/
def responseWord (st : Status) (data : BitVec 32) : RspWord := st.code ++ data

/-- The code of `LIFE` (10_state R16). -/
def Life.code : Life → BitVec 2
  | .unconfigured => 0
  | .validated => 1
  | .active => 2
  | .shutdown => 3

/-- `zext_32(b)` of a sampled bit (41_jtag R102, 42_swd R118). -/
def zext32 (b : Bool) : BitVec 32 := (BitVec.ofBool b).setWidth 32

/-- `M_TCK | M_TDI | M_TMS` (10_state R20). -/
def maskJtagWrite : BitVec 6 := 0b000111

/-- `M_TRST` (10_state R20). -/
def maskTrst : BitVec 6 := 0b001000

/-- `M_SRST` (10_state R20). -/
def maskSrst : BitVec 6 := 0b010000

/-- `M_BLINK` (10_state R20). -/
def maskBlink : BitVec 6 := 0b100000

/-- The bundle value `{0, 0, 0, tms, tdi, tck}` (41_jtag R101). -/
def jtagWriteValue (tck tms tdi : Bool) : BitVec 6 :=
  (0#3) ++ BitVec.ofBool tms ++ BitVec.ofBool tdi ++ BitVec.ofBool tck

/-- A bit at bundle position `i` (43_speed R135). -/
def bitAt (i : Nat) (b : Bool) : BitVec 6 := (BitVec.ofBool b).setWidth 6 <<< i

/-- The electrical level of a reset line: its assert level when asserted, the other one when not
(41_jtag R103, R107). -/
def resetLevel (assertLevel asserted : Bool) : Bool :=
  if asserted then assertLevel else !assertLevel

/-- The direction `SWD_DRIVE` asks for (42_swd R116). -/
def swdDirection (isOutput : Bool) : Drive := if isOutput then .output else .input

/-- The slot form of a register: `Opt(v)` (44_lifecycle R146); `ABSENT` is coded as `NONE`. -/
def slotOf (v : PinIdx) : PinIdx := if v = noPin then noPin else v

end Sys2Proof.Machine
end

