-- ==== Sys2Proof/Machine/Flags.lean ====
section
/-! DEFINITION. The conditions that gate commands: spec 10_state R29, 41_jtag R100, 42_swd R115 and the
table of 60_exceptions R181. PINSEQ has no condition codes and no operation sets a flag as a side
effect of computing a value (10_state R17). -/

namespace Sys2Proof.Machine

/-- A configuration set and INIT are accepted only in `UNCONFIGURED` (40_pin_config R80, 44_lifecycle
R143). -/
def isUnconfigured (s : State) : Bool := s.life == .unconfigured

/-- A JTAG primitive is available (41_jtag R100). -/
def jtagAvailable (s : State) : Bool := s.life == .active && s.jtagOn

/-- An SWD primitive is available (42_swd R115). -/
def swdAvailable (s : State) : Bool := s.life == .active && s.swdOn

/-- `BLINK_J` (10_state R29). -/
def blinkJ (s : State) : Bool := s.jtagOn && s.pa.assigned .blink

/-- `BLINK_S` (10_state R29). -/
def blinkS (s : State) : Bool := s.swdOn && s.pa.assigned .blink

/-- JTAG_BLINK is available (41_jtag R104). -/
def jtagBlinkAvailable (s : State) : Bool := s.life == .active && blinkJ s

/-- SWD_BLINK is available (42_swd R119). -/
def swdBlinkAvailable (s : State) : Bool := s.life == .active && blinkS s

end Sys2Proof.Machine
end

