-- ==== Sys2Proof/Machine/Ops.lean ====
section
/-! DEFINITION. The shared operations: the outcome of a piece of pseudocode and its sequencing, taking
an error and returning (spec 60_exceptions R179, R180), the platform predicates (00_scope R5), the
per-pin reads, the five access primitives (20_memory R41 to R45) and the busy-wait (43_speed R132). -/

namespace Sys2Proof.Machine

/-! ### Running a command's pseudocode -/

/-- How a piece of pseudocode ends: it goes on with a value and a state, it raises an error, or it
does what the platform cannot do. -/
inductive Run (α : Type) where
  | go (a : α) (s : State)
  | raised (e : Status) (info : BitVec 32) (s : State)
  | stop (f : Fault)
  deriving Repr

/-- First `r`, then `k`: after a `raise` no later step runs (60_exceptions R179). -/
def Run.andThen {α β : Type} (r : Run α) (k : α → State → Run β) : Run β :=
  match r with
  | .go a s => k a s
  | .raised e info s => .raised e info s
  | .stop f => .stop f

/-- Answer HOST with one response word (30_encoding R62). -/
def respond (st : Status) (data : BitVec 32) (s : State) : State :=
  { s with responses := s.responses ++ [responseWord st data] }

/-- TAKING AN ERROR: the response word is `{status, info}`, nothing is saved, no mode changes, and
what the pseudocode had changed before stays (60_exceptions R179). -/
def takeError (e : Status) (info : BitVec 32) (s : State) : State := respond e info s

/-- RETURNING: there is no return instruction and no handler; a finished command answers `OK` with
its data, and PINSEQ is ready for the next one either way (60_exceptions R180). -/
def returnOk (data : BitVec 32) (s : State) : State := respond .ok data s

/-- The outcome of a whole command. -/
def Run.answer (r : Run (BitVec 32)) : Host.Outcome State Fault Refusal :=
  match r with
  | .go data s => .next (returnOk data s)
  | .raised e info s => .next (takeError e info s)
  | .stop f => .fault f

/-- `if not c: raise e` with no information. -/
def require (c : Bool) (e : Status) (s : State) : Run Unit :=
  if c then .go () s else .raised e 0 s

/-- `if c: act`. -/
def when (c : Bool) (act : State → Run Unit) (s : State) : Run Unit :=
  if c then act s else .go () s

/-- `TRACE += e` (00_scope R7). -/
def log (e : Event) (s : State) : State := { s with trace := s.trace ++ [e] }

/-! ### The platform and the pins -/

/-- `PinValid(p)`: false of `NONE`, and true only below `NPINS` (00_scope R5). -/
def pinValid (ps : Params) (p : PinIdx) : Bool :=
  p != noPin && (decide (p.toNat < ps.npins) && ps.validPins.contains p.toNat)

/-- `PinOutCapable(p)`, which implies `PinValid(p)` (00_scope R5). -/
def pinOutCapable (ps : Params) (p : PinIdx) : Bool :=
  pinValid ps p && ps.outPins.contains p.toNat

/-- `DIR[p]`; `none` is `UNSET` (10_state R24). -/
def State.direction (s : State) (p : Nat) : Option Drive := PinMap.get s.dir p

/-- `LVL[p]`; a pin not written since reset holds its draw (10_state R25). -/
def State.level (s : State) (p : Nat) : Bool :=
  match PinMap.get s.lvl p with
  | some b => b
  | none => Config.lvlReset s.epoch p

/-- `OB`, the six-bit value of the output bundle: bit `i` is `LVL[OSLOT[i]]`, an absent slot reads 0
(10_state R21, R25). -/
def State.bundleBit (s : State) (i : Fin 6) : Bool :=
  s.oslot[i] != noPin && s.level s.oslot[i].toNat

/-! ### The access primitives -/

/-- `PinSetDir(p, d)` (20_memory R41): the latch is kept. -/
def pinSetDir (p : PinIdx) (d : Drive) (s : State) : Run Unit :=
  if pinValid s.params p = false then .stop (.pinNotValid p)
  else if d = .output ∧ pinOutCapable s.params p = false then .stop (.pinNotOutCapable p)
  else .go () (log (.dir p.toNat d) { s with dir := PinMap.set s.dir p.toNat d })

/-- `PinSetLevel(p, b)` (20_memory R42): the latch is written whatever the direction. -/
def pinSetLevel (p : PinIdx) (b : Bool) (s : State) : Run Unit :=
  if pinValid s.params p = false then .stop (.pinNotValid p)
  else .go () (log (.drv [(p.toNat, b)]) { s with lvl := PinMap.set s.lvl p.toNat b })

/-- `SetOut(p, b)` (44_lifecycle R143): the direction before the level. -/
def setOut (p : PinIdx) (b : Bool) (s : State) : Run Unit :=
  (pinSetDir p .output s).andThen fun _ s => pinSetLevel p b s

/-- The draw a sample returns when no named environment fixes it: ENV's level of an undriven pad
(10_state R26), an unconstrained bit for a pin that is an output (20_memory R43, 93 U3). -/
def freeSample (s : State) (p : Nat) : Bool :=
  match s.direction p with
  | some .output => Config.drivenRead s.epoch s.trace p
  | some .input => Config.padIn s.epoch s.trace p
  | none => Config.padIn s.epoch s.trace p

/-- `PadIn(p)`, ENV's level of a pad PINSEQ does not drive: a draw, the latch under LOOPBACK, the next
answer of a script (10_state R26; log entry 5). -/
def State.padIn (s : State) (p : Nat) : Bool :=
  match s.env with
  | .free => Config.padIn s.epoch s.trace p
  | .loopback => s.level p
  | .script [] => Config.padIn s.epoch s.trace p
  | .script (b :: _) => b

/-- `Pad(p)`, the level seen at the pad (10_state R26): the latch while PINSEQ drives it, else ENV's
level. ENV driving against PINSEQ is not modelled (log entry 28). -/
def State.pad (s : State) (p : Nat) : Bool :=
  match s.direction p with
  | some .output => s.level p
  | some .input => s.padIn p
  | none => s.padIn p

/-- What a sample of pad `p` returns, and the environment after it (log entry 5). Under LOOPBACK it
is the latch (10_state R26, 93 U3). -/
def answerSample (s : State) (p : Nat) : Bool × Env :=
  match s.env with
  | .free => (freeSample s p, .free)
  | .loopback => (s.level p, .loopback)
  | .script [] => (freeSample s p, .script [])
  | .script (b :: rest) => (b, .script rest)

/-- One `SMP` event: nothing of PINSEQ changes (20_memory R43, R45, R49). -/
def samplePad (p : Nat) (s : State) : Run Bool :=
  .go (answerSample s p).1
    (log (.smp p (answerSample s p).1) { s with env := (answerSample s p).2 })

/-- `PinGetLevel(p)` (20_memory R43). -/
def pinGetLevel (p : PinIdx) (s : State) : Run Bool :=
  if pinValid s.params p = false then .stop (.pinNotValid p) else samplePad p.toNat s

/-- The slots a bundle write selects, in slot order: mask bit 1 and the slot present (20_memory
R44). -/
def selectedSlots (oslot : Vector PinIdx 6) (mask val : BitVec 6) : List (Nat × Bool) :=
  ([0, 1, 2, 3, 4, 5] : List (Fin 6)).filterMap fun i =>
    if mask.getLsbD i.val && oslot[i] != noPin then some (oslot[i].toNat, val.getLsbD i.val)
    else none

/-- The level one pad takes: the bit given to it, or a draw where the same write gives the pin both
bits (20_memory R44, 93 U7). -/
def settledLevel (s : State) (sel : List (Nat × Bool)) (e : Nat × Bool) : Bool :=
  if sel.contains (e.1, !e.2) then Config.sharedPinLevel s.epoch s.trace e.1 else e.2

/-- `upd` of the pseudocode of 20_memory R44, as a canonical map. -/
def bundleUpdates (s : State) (mask val : BitVec 6) : List (Nat × Bool) :=
  PinMap.setAll [] ((selectedSlots s.oslot mask val).map
    fun e => (e.1, settledLevel s (selectedSlots s.oslot mask val) e))

/-- `BundleWrite(mask, val)` (20_memory R44): one event for all the selected present slots. -/
def bundleWrite (mask val : BitVec 6) (s : State) : Run Unit :=
  if s.obAlloc then
    .go () (log (.drv (bundleUpdates s mask val))
      { s with lvl := PinMap.setAll s.lvl (bundleUpdates s mask val) })
  else .stop .noOutputBundle

/-- `BundleRead()` (20_memory R45). -/
def bundleRead (s : State) : Run Bool :=
  if s.ibAlloc then samplePad s.islot.toNat s else .stop .noInputBundle

/-- `ApplyDelay()` (43_speed R132): one event, no state changes. -/
def applyDelay (s : State) : State := log (.dly s.delayCnt) s

end Sys2Proof.Machine
end

