-- ==== Sys2Proof/Machine/Jtag.lean ====
section
/-! DEFINITION. The JTAG signal primitives (spec 41_jtag_primitives R100 to R107), all through the
bundles. -/

namespace Sys2Proof.Machine

/-- The pseudocode of JTAG_WRITE (R101): one bundle write (R106), then the delay. -/
def jtagWriteRun (tck tms tdi : Bool) (s : State) : Run (BitVec 32) :=
  (require (jtagAvailable s) .errUnavailable s).andThen fun _ s =>
  (bundleWrite maskJtagWrite (jtagWriteValue tck tms tdi) s).andThen fun _ s =>
  .go 0 (applyDelay s)

/-- JTAG_WRITE (R101). -/
def execJtagWrite (tck tms tdi : Bool) (s : State) : Host.Outcome State Fault Refusal :=
  (jtagWriteRun tck tms tdi s).answer

/-- The pseudocode of JTAG_READ (R102). -/
def jtagReadRun (s : State) : Run (BitVec 32) :=
  (require (jtagAvailable s) .errUnavailable s).andThen fun _ s =>
  (bundleRead s).andThen fun b s =>
  .go (zext32 b) s

/-- JTAG_READ (R102). -/
def execJtagRead (s : State) : Host.Outcome State Fault Refusal := (jtagReadRun s).answer

/-- The pseudocode of JTAG_RESET (R103): TRST first, each configured line in its own bundle write. -/
def jtagResetRun (trst srst : Bool) (s : State) : Run (BitVec 32) :=
  (require (jtagAvailable s) .errUnavailable s).andThen fun _ s =>
  (when (s.pa.assigned .trst)
    (bundleWrite maskTrst (bitAt 3 (resetLevel s.params.trstAssertLevel trst))) s).andThen
      fun _ s =>
  (when (s.pa.assigned .srst)
    (bundleWrite maskSrst (bitAt 4 (resetLevel s.params.srstAssertLevel srst))) s).andThen
      fun _ s =>
  .go 0 s

/-- JTAG_RESET (R103). -/
def execJtagReset (trst srst : Bool) (s : State) : Host.Outcome State Fault Refusal :=
  (jtagResetRun trst srst s).answer

/-- The pseudocode of JTAG_BLINK (R104). -/
def jtagBlinkRun (on : Bool) (s : State) : Run (BitVec 32) :=
  (require (jtagBlinkAvailable s) .errUnavailable s).andThen fun _ s =>
  (bundleWrite maskBlink (bitAt 5 on) s).andThen fun _ s =>
  .go 0 s

/-- JTAG_BLINK (R104). -/
def execJtagBlink (on : Bool) (s : State) : Host.Outcome State Fault Refusal :=
  (jtagBlinkRun on s).answer

end Sys2Proof.Machine
end

