-- ==== Sys2Proof/Machine/Lifecycle.lean ====
section
/-! DEFINITION. Validation, bundle allocation, INIT and QUIT (spec 44_lifecycle R140 to R155). -/

namespace Sys2Proof.Machine

/-- `CanOperateJtag()` (R141). -/
def canOperateJtag (s : State) : Bool :=
  pinOutCapable s.params s.pa.tck && pinOutCapable s.params s.pa.tms &&
  pinValid s.params s.pa.tdi &&
  match s.params.tdoCheck with
  | .valid => pinValid s.params s.pa.tdo
  | .outCapable => pinOutCapable s.params s.pa.tdo

/-- `CanOperateSwd()` (R142). -/
def canOperateSwd (s : State) : Bool :=
  pinValid s.params s.pa.swclk && pinValid s.params s.pa.swdio

/-- `Validate(j, s)` (R144), before any pin is touched; `data` is the category (60_exceptions R172). -/
def validate (j w : Bool) (s : State) : Run Unit :=
  if !j && !w then .raised .errValidation 0 s
  else if j && !canOperateJtag s then .raised .errValidation 1 s
  else if w && !canOperateSwd s then .raised .errValidation 2 s
  else .go () s

/-- `SetupJtagPins()` (R145). -/
def setupJtagPins (s : State) : Run Unit :=
  (setOut s.pa.tdi false s).andThen fun _ s =>
  (setOut s.pa.tck false s).andThen fun _ s =>
  setOut s.pa.tms true s

/-- No bundle: both released, every slot `ABSENT` (R146, R151). -/
def releaseBundles (s : State) : State :=
  { s with
    obAlloc := false
    ibAlloc := false
    oslot := #v[noPin, noPin, noPin, noPin, noPin, noPin]
    islot := noPin }

/-- `FailAlloc(which)` (R146, R153). -/
def failAlloc (which : BitVec 32) (s : State) : Run Unit :=
  .raised .errResource which { releaseBundles s with life := .shutdown }

/-- The pin list of the output bundle, in the fixed bit order (R146, 10_state R20). -/
def bundlePins (pa : PinRegs) : Vector PinIdx 6 :=
  #v[pa.tck, pa.tdi, pa.tms, slotOf pa.trst, slotOf pa.srst, slotOf pa.blink]

/-- `AllocBundles()` (R146). -/
def allocBundles (s : State) : Run Unit :=
  (if s.allocOutOK then Run.go () { s with obAlloc := true, oslot := bundlePins s.pa }
    else failAlloc 1 s).andThen fun _ s =>
  (if s.allocInOK then Run.go () { s with ibAlloc := true, islot := s.pa.tdo }
    else failAlloc 2 s).andThen fun _ s =>
  pinSetDir s.pa.tdo .input s

/-- `SetupSwdPins()` (R147). -/
def setupSwdPins (s : State) : Run Unit :=
  (setOut s.pa.swdio false s).andThen fun _ s =>
  setOut s.pa.swclk false s

/-- `SetupOptionalPins()` (R148): the reset lines deasserted, the indicator off. -/
def setupOptionalPins (s : State) : Run Unit :=
  (when (s.pa.assigned .trst)
    (setOut s.pa.trst (resetLevel s.params.trstAssertLevel false)) s).andThen fun _ s =>
  (when (s.pa.assigned .srst)
    (setOut s.pa.srst (resetLevel s.params.srstAssertLevel false)) s).andThen fun _ s =>
  when (s.pa.assigned .blink) (setOut s.pa.blink false) s

/-- The setup phase of INIT with the straps as sampled, `VALIDATED` to `ACTIVE` (R143, R149). -/
def setup (j w : Bool) (s : State) : Run (BitVec 32) :=
  (when j setupJtagPins { s with life := .validated }).andThen fun _ s =>
  (when j allocBundles s).andThen fun _ s =>
  (when w setupSwdPins s).andThen fun _ s =>
  (setupOptionalPins s).andThen fun _ s =>
  .go 0 { s with jtagOn := j, swdOn := w, life := .active }

/-- The pseudocode of INIT (R143): both straps are sampled once, at the start (10_state R18). -/
def initRun (s : State) : Run (BitVec 32) :=
  (require (isUnconfigured s) .errUnavailable s).andThen fun _ s =>
  (validate s.trJtag s.trSwd s).andThen fun _ s =>
  setup s.trJtag s.trSwd s

/-- INIT (R143 to R150, R152). -/
def execInit (s : State) : Host.Outcome State Fault Refusal := (initRun s).answer

/-- The pseudocode of QUIT (R151): no pin event. -/
def quitRun (s : State) : Run (BitVec 32) :=
  .go 0 { releaseBundles s with jtagOn := false, swdOn := false, life := .shutdown }

/-- QUIT (R151). -/
def execQuit (s : State) : Host.Outcome State Fault Refusal := (quitRun s).answer

end Sys2Proof.Machine
end

