-- ==== Sys2Proof/Machine/PinConfig.lean ====
section
/-! DEFINITION. The eleven pin configuration commands (spec 40_pin_config R80 to R93): instances of one
`Config(sigs)`. -/

namespace Sys2Proof.Machine

/-- The count of signals of a configuration command, as an `argc` value. -/
def sigCount (sigs : List Signal) : BitVec 8 := BitVec.ofNat 8 sigs.length

/-- The set part of `Config(sigs)`: all the registers in one step, in `UNCONFIGURED` only (R80). -/
def setPins (sigs : List Signal) (c : CfgArgs) (s : State) : Run Unit :=
  (require (isUnconfigured s) .errUnavailable s).andThen fun _ s =>
    .go () { s with pa := s.pa.setAll (sigs.zip (cfgPins c)) }

/-- `Config(sigs)` (R80): the argument count first, then the set, then the values held after. -/
def config (sigs : List Signal) (c : CfgArgs) (s : State) : Run (BitVec 32) :=
  (require (c.argc == 0 || c.argc == sigCount sigs) .errSyntax s).andThen fun _ s =>
  (when (c.argc == sigCount sigs) (setPins sigs c) s).andThen fun _ s =>
    .go (packPins (sigs.map s.pa.get)) s

/-- JTAG_PINS (R81). -/
def execJtagPins (c : CfgArgs) (s : State) : Host.Outcome State Fault Refusal :=
  (config [.tck, .tms, .tdi, .tdo] c s).answer

/-- JTAG_PIN_TCK (R82). -/
def execJtagPinTck (c : CfgArgs) (s : State) : Host.Outcome State Fault Refusal :=
  (config [.tck] c s).answer

/-- JTAG_PIN_TMS (R83). -/
def execJtagPinTms (c : CfgArgs) (s : State) : Host.Outcome State Fault Refusal :=
  (config [.tms] c s).answer

/-- JTAG_PIN_TDI (R84). -/
def execJtagPinTdi (c : CfgArgs) (s : State) : Host.Outcome State Fault Refusal :=
  (config [.tdi] c s).answer

/-- JTAG_PIN_TDO (R85). -/
def execJtagPinTdo (c : CfgArgs) (s : State) : Host.Outcome State Fault Refusal :=
  (config [.tdo] c s).answer

/-- JTAG_PIN_TRST (R86). -/
def execJtagPinTrst (c : CfgArgs) (s : State) : Host.Outcome State Fault Refusal :=
  (config [.trst] c s).answer

/-- JTAG_PIN_SRST (R87). -/
def execJtagPinSrst (c : CfgArgs) (s : State) : Host.Outcome State Fault Refusal :=
  (config [.srst] c s).answer

/-- JTAG_PIN_BLINK (R88). -/
def execJtagPinBlink (c : CfgArgs) (s : State) : Host.Outcome State Fault Refusal :=
  (config [.blink] c s).answer

/-- SWD_PINS (R89). -/
def execSwdPins (c : CfgArgs) (s : State) : Host.Outcome State Fault Refusal :=
  (config [.swclk, .swdio] c s).answer

/-- SWD_PIN_SWCLK (R90). -/
def execSwdPinSwclk (c : CfgArgs) (s : State) : Host.Outcome State Fault Refusal :=
  (config [.swclk] c s).answer

/-- SWD_PIN_SWDIO (R91). -/
def execSwdPinSwdio (c : CfgArgs) (s : State) : Host.Outcome State Fault Refusal :=
  (config [.swdio] c s).answer

end Sys2Proof.Machine
end

