-- ==== Sys2Proof/Machine/Speed.lean ====
section
/-! DEFINITION. The speed register (spec 43_speed R130, R131): bookkeeping only, tied neither to the
delay nor to any pin (R133, R134). -/

namespace Sys2Proof.Machine

/-- The pseudocode of SPEED_SET (R130). -/
def speedSetRun (khz : BitVec 32) (s : State) : Run (BitVec 32) :=
  (require (khz != 0) .errUnsupportedSpeed s).andThen fun _ s =>
  .go 0 { s with khz := khz }

/-- SPEED_SET (R130). -/
def execSpeedSet (khz : BitVec 32) (s : State) : Host.Outcome State Fault Refusal :=
  (speedSetRun khz s).answer

/-- SPEED_GET (R131). -/
def execSpeedGet (s : State) : Host.Outcome State Fault Refusal :=
  (Run.go s.khz s).answer

end Sys2Proof.Machine
end

