-- ==== Sys2Proof/Machine/Swd.lean ====
section
/-! DEFINITION. The SWD signal primitives (spec 42_swd_primitives R115 to R122), all through the
per-pin primitives. -/

namespace Sys2Proof.Machine

/-- The pseudocode of SWD_DRIVE (R116): the latch is kept. -/
def swdDriveRun (isOutput : Bool) (s : State) : Run (BitVec 32) :=
  (require (swdAvailable s) .errUnavailable s).andThen fun _ s =>
  (pinSetDir s.pa.swdio (swdDirection isOutput) s).andThen fun _ s =>
  .go 0 s

/-- SWD_DRIVE (R116). -/
def execSwdDrive (isOutput : Bool) (s : State) : Host.Outcome State Fault Refusal :=
  (swdDriveRun isOutput s).answer

/-- Whether this SWD_WRITE writes the clock first: `SWD_WRITE_ORDER`, a draw when it is left open
(R117, 93 U10). -/
def clockGoesFirst (s : State) : Bool :=
  match s.params.swdWriteOrder with
  | .either => Config.swdClockFirst s.epoch s.trace
  | .clockFirst => true
  | .dataFirst => false

/-- The two level writes of SWD_WRITE, in one of the two orders (R117). -/
def swdLevels (clockFirst swclk swdio : Bool) (s : State) : Run Unit :=
  match clockFirst with
  | true => (pinSetLevel s.pa.swclk swclk s).andThen fun _ s => pinSetLevel s.pa.swdio swdio s
  | false => (pinSetLevel s.pa.swdio swdio s).andThen fun _ s => pinSetLevel s.pa.swclk swclk s

/-- The pseudocode of SWD_WRITE (R117). -/
def swdWriteRun (swclk swdio : Bool) (s : State) : Run (BitVec 32) :=
  (require (swdAvailable s) .errUnavailable s).andThen fun _ s =>
  (swdLevels (clockGoesFirst s) swclk swdio s).andThen fun _ s =>
  .go 0 (applyDelay s)

/-- SWD_WRITE (R117). -/
def execSwdWrite (swclk swdio : Bool) (s : State) : Host.Outcome State Fault Refusal :=
  (swdWriteRun swclk swdio s).answer

/-- The pseudocode of SWD_READ (R118). -/
def swdReadRun (s : State) : Run (BitVec 32) :=
  (require (swdAvailable s) .errUnavailable s).andThen fun _ s =>
  (pinGetLevel s.pa.swdio s).andThen fun b s =>
  .go (zext32 b) s

/-- SWD_READ (R118). -/
def execSwdRead (s : State) : Host.Outcome State Fault Refusal := (swdReadRun s).answer

/-- The pseudocode of SWD_BLINK (R119). -/
def swdBlinkRun (on : Bool) (s : State) : Run (BitVec 32) :=
  (require (swdBlinkAvailable s) .errUnavailable s).andThen fun _ s =>
  (pinSetLevel s.pa.blink on s).andThen fun _ s =>
  .go 0 s

/-- SWD_BLINK (R119). -/
def execSwdBlink (on : Bool) (s : State) : Host.Outcome State Fault Refusal :=
  (swdBlinkRun on s).answer

end Sys2Proof.Machine
end

