-- ==== Sys2Proof/Syntax.lean ====
section
/-! DEFINITION. The 23 commands of the opcode table (spec 30_encoding R67), one constructor per row,
each with exactly the operands its format carries (R61, R65, R66). -/

namespace Sys2Proof

/-- A command PINSEQ executes. Bit operands are Bool; their order here is that of the source's
signatures, their places in the word are R65's. -/
inductive Instr where
  /-- `jtag-pins`, format C. -/
  | jtagPins (c : CfgArgs)
  /-- `jtag-pin-tck`, format C. -/
  | jtagPinTck (c : CfgArgs)
  /-- `jtag-pin-tms`, format C. -/
  | jtagPinTms (c : CfgArgs)
  /-- `jtag-pin-tdi`, format C. -/
  | jtagPinTdi (c : CfgArgs)
  /-- `jtag-pin-tdo`, format C. -/
  | jtagPinTdo (c : CfgArgs)
  /-- `jtag-pin-trst`, format C. -/
  | jtagPinTrst (c : CfgArgs)
  /-- `jtag-pin-srst`, format C. -/
  | jtagPinSrst (c : CfgArgs)
  /-- `jtag-pin-blink`, format C. -/
  | jtagPinBlink (c : CfgArgs)
  /-- `swd-pins`, format C. -/
  | swdPins (c : CfgArgs)
  /-- `swd-pin-swclk`, format C. -/
  | swdPinSwclk (c : CfgArgs)
  /-- `swd-pin-swdio`, format C. -/
  | swdPinSwdio (c : CfgArgs)
  /-- `init`, format N. -/
  | init
  /-- `quit`, format N. -/
  | quit
  /-- `setSpeedKhz`, format S. -/
  | speedSet (khz : BitVec 32)
  /-- `getSpeedKhz`, format N. -/
  | speedGet
  /-- `jtagWrite(tck, tms, tdi)`, format B. -/
  | jtagWrite (tck tms tdi : Bool)
  /-- `jtagRead`, format N. -/
  | jtagRead
  /-- `jtagReset(trst, srst)`, format B. -/
  | jtagReset (trst srst : Bool)
  /-- `jtagBlink(on)`, format B. -/
  | jtagBlink (on : Bool)
  /-- `swdDrive(isOutput)`, format B. -/
  | swdDrive (isOutput : Bool)
  /-- `swdWrite(swclk, swdio)`, format B. -/
  | swdWrite (swclk swdio : Bool)
  /-- `swdRead`, format N. -/
  | swdRead
  /-- `swdBlink(on)`, format B. -/
  | swdBlink (on : Bool)
  deriving DecidableEq, Repr

end Sys2Proof
end

