-- ==== Sys2Proof/Machine/Dispatch.lean ====
section
/-! DEFINITION. One arm per command of spec 30_encoding R67. -/

namespace Sys2Proof.Machine

/-- What a command does to a state. -/
def exec (i : Instr) (s : State) : Host.Outcome State Fault Refusal :=
  match i with
  | .jtagPins c => Sys2Proof.Machine.execJtagPins c s
  | .jtagPinTck c => Sys2Proof.Machine.execJtagPinTck c s
  | .jtagPinTms c => Sys2Proof.Machine.execJtagPinTms c s
  | .jtagPinTdi c => Sys2Proof.Machine.execJtagPinTdi c s
  | .jtagPinTdo c => Sys2Proof.Machine.execJtagPinTdo c s
  | .jtagPinTrst c => Sys2Proof.Machine.execJtagPinTrst c s
  | .jtagPinSrst c => Sys2Proof.Machine.execJtagPinSrst c s
  | .jtagPinBlink c => Sys2Proof.Machine.execJtagPinBlink c s
  | .swdPins c => Sys2Proof.Machine.execSwdPins c s
  | .swdPinSwclk c => Sys2Proof.Machine.execSwdPinSwclk c s
  | .swdPinSwdio c => Sys2Proof.Machine.execSwdPinSwdio c s
  | .init => Sys2Proof.Machine.execInit s
  | .quit => Sys2Proof.Machine.execQuit s
  | .speedSet khz => Sys2Proof.Machine.execSpeedSet khz s
  | .speedGet => Sys2Proof.Machine.execSpeedGet s
  | .jtagWrite tck tms tdi => Sys2Proof.Machine.execJtagWrite tck tms tdi s
  | .jtagRead => Sys2Proof.Machine.execJtagRead s
  | .jtagReset trst srst => Sys2Proof.Machine.execJtagReset trst srst s
  | .jtagBlink on => Sys2Proof.Machine.execJtagBlink on s
  | .swdDrive isOutput => Sys2Proof.Machine.execSwdDrive isOutput s
  | .swdWrite swclk swdio => Sys2Proof.Machine.execSwdWrite swclk swdio s
  | .swdRead => Sys2Proof.Machine.execSwdRead s
  | .swdBlink on => Sys2Proof.Machine.execSwdBlink on s

end Sys2Proof.Machine
end

