-- ==== Sys2Proof/Decode.lean ====
section
/-! DEFINITION. From a command word to a command or a named reason why it is illegal (spec
30_encoding R60 to R69), then the encoder from the same tables, and the serialised form of a word
(20_memory R46). The decoder is total and does not look at the state (R69). -/

namespace Sys2Proof

/-- The rows of R67, as names. -/
inductive Op where
  | jtagPins | jtagPinTck | jtagPinTms | jtagPinTdi | jtagPinTdo | jtagPinTrst | jtagPinSrst
  | jtagPinBlink | swdPins | swdPinSwclk | swdPinSwdio | init | quit | speedSet | speedGet
  | jtagWrite | jtagRead | jtagReset | jtagBlink | swdDrive | swdWrite | swdRead | swdBlink
  deriving DecidableEq, Repr

/-- Why a word is illegal (R68). -/
inductive Illegal where
  /-- the opcode is none of the 23 -/
  | unknownOpcode (opcode : BitVec 8)
  /-- a format N, B or S word with `argc != 0` -/
  | argcNotZero (argc : BitVec 8)
  /-- a format N or B word with a non-zero reserved bit of `arg` -/
  | reservedArgBits (arg : BitVec 32)
  /-- a serialised command that is not six bytes long (R60: one length) -/
  | notSixBytes (count : Nat)
  deriving DecidableEq, Repr

/-- The opcode column of R67. -/
def Op.code : Op → BitVec 8
  | .jtagPins => 0x10
  | .jtagPinTck => 0x11
  | .jtagPinTms => 0x12
  | .jtagPinTdi => 0x13
  | .jtagPinTdo => 0x14
  | .jtagPinTrst => 0x15
  | .jtagPinSrst => 0x16
  | .jtagPinBlink => 0x17
  | .swdPins => 0x18
  | .swdPinSwclk => 0x19
  | .swdPinSwdio => 0x1A
  | .init => 0x20
  | .quit => 0x21
  | .speedSet => 0x30
  | .speedGet => 0x31
  | .jtagWrite => 0x40
  | .jtagRead => 0x41
  | .jtagReset => 0x42
  | .jtagBlink => 0x43
  | .swdDrive => 0x50
  | .swdWrite => 0x51
  | .swdRead => 0x52
  | .swdBlink => 0x53

/-- The rows in the order of R67. -/
def Op.all : List Op :=
  [.jtagPins, .jtagPinTck, .jtagPinTms, .jtagPinTdi, .jtagPinTdo, .jtagPinTrst, .jtagPinSrst,
   .jtagPinBlink, .swdPins, .swdPinSwclk, .swdPinSwdio, .init, .quit, .speedSet, .speedGet,
   .jtagWrite, .jtagRead, .jtagReset, .jtagBlink, .swdDrive, .swdWrite, .swdRead, .swdBlink]

/-- The row an opcode names, if any. -/
def Op.ofCode (c : BitVec 8) : Option Op := Op.all.find? (fun o => o.code == c)

/-- `CMD[47:40]` (R60). -/
def opcodeField (w : CmdWord) : BitVec 8 := w.extractLsb' 40 8

/-- `CMD[39:32]` (R60). -/
def argcField (w : CmdWord) : BitVec 8 := w.extractLsb' 32 8

/-- `CMD[31:0]` (R60). -/
def argField (w : CmdWord) : BitVec 32 := w.extractLsb' 0 32

/-- The operands of format C: `argc` and the bytes `a0` to `a3` of `arg` (R60, R61, R64). -/
def configArgs (argc : BitVec 8) (arg : BitVec 32) : CfgArgs where
  argc := argc
  a0 := arg.extractLsb' 24 8
  a1 := arg.extractLsb' 16 8
  a2 := arg.extractLsb' 8 8
  a3 := arg.extractLsb' 0 8

/-- Formats N (`n = 0`) and B (`n` operand bits): `argc = 0`, and the bits of `arg` from `n` up
are 0 (R61, R65). -/
def lowBits (n : Nat) (argc : BitVec 8) (arg : BitVec 32) (i : Instr) : Except Illegal Instr :=
  if argc = 0 then
    if arg >>> n = 0 then .ok i else .error (.reservedArgBits arg)
  else .error (.argcNotZero argc)

/-- Format S: `argc = 0` (R61, R66). -/
def wholeArg (argc : BitVec 8) (i : Instr) : Except Illegal Instr :=
  if argc = 0 then .ok i else .error (.argcNotZero argc)

/-- The command of a row, from the two fields below the opcode. -/
def decodeFields (o : Op) (argc : BitVec 8) (arg : BitVec 32) : Except Illegal Instr :=
  match o with
  | .jtagPins => .ok (.jtagPins (configArgs argc arg))
  | .jtagPinTck => .ok (.jtagPinTck (configArgs argc arg))
  | .jtagPinTms => .ok (.jtagPinTms (configArgs argc arg))
  | .jtagPinTdi => .ok (.jtagPinTdi (configArgs argc arg))
  | .jtagPinTdo => .ok (.jtagPinTdo (configArgs argc arg))
  | .jtagPinTrst => .ok (.jtagPinTrst (configArgs argc arg))
  | .jtagPinSrst => .ok (.jtagPinSrst (configArgs argc arg))
  | .jtagPinBlink => .ok (.jtagPinBlink (configArgs argc arg))
  | .swdPins => .ok (.swdPins (configArgs argc arg))
  | .swdPinSwclk => .ok (.swdPinSwclk (configArgs argc arg))
  | .swdPinSwdio => .ok (.swdPinSwdio (configArgs argc arg))
  | .init => lowBits 0 argc arg .init
  | .quit => lowBits 0 argc arg .quit
  | .speedSet => wholeArg argc (.speedSet arg)
  | .speedGet => lowBits 0 argc arg .speedGet
  | .jtagWrite =>
    lowBits 3 argc arg
      (.jtagWrite (tck := arg.getLsbD 0) (tdi := arg.getLsbD 1) (tms := arg.getLsbD 2))
  | .jtagRead => lowBits 0 argc arg .jtagRead
  | .jtagReset =>
    lowBits 2 argc arg (.jtagReset (trst := arg.getLsbD 0) (srst := arg.getLsbD 1))
  | .jtagBlink => lowBits 1 argc arg (.jtagBlink (arg.getLsbD 0))
  | .swdDrive => lowBits 1 argc arg (.swdDrive (arg.getLsbD 0))
  | .swdWrite =>
    lowBits 2 argc arg (.swdWrite (swclk := arg.getLsbD 0) (swdio := arg.getLsbD 1))
  | .swdRead => lowBits 0 argc arg .swdRead
  | .swdBlink => lowBits 1 argc arg (.swdBlink (arg.getLsbD 0))

/-- The command a word stands for, or why it is illegal (R67, R68, R69). -/
def decode (w : CmdWord) : Except Illegal Instr :=
  match Op.ofCode (opcodeField w) with
  | some o => decodeFields o (argcField w) (argField w)
  | none => .error (.unknownOpcode (opcodeField w))

/-! ### The encoder -/

/-- The row of a command. -/
def Instr.op : Instr → Op
  | .jtagPins _ => .jtagPins
  | .jtagPinTck _ => .jtagPinTck
  | .jtagPinTms _ => .jtagPinTms
  | .jtagPinTdi _ => .jtagPinTdi
  | .jtagPinTdo _ => .jtagPinTdo
  | .jtagPinTrst _ => .jtagPinTrst
  | .jtagPinSrst _ => .jtagPinSrst
  | .jtagPinBlink _ => .jtagPinBlink
  | .swdPins _ => .swdPins
  | .swdPinSwclk _ => .swdPinSwclk
  | .swdPinSwdio _ => .swdPinSwdio
  | .init => .init
  | .quit => .quit
  | .speedSet _ => .speedSet
  | .speedGet => .speedGet
  | .jtagWrite _ _ _ => .jtagWrite
  | .jtagRead => .jtagRead
  | .jtagReset _ _ => .jtagReset
  | .jtagBlink _ => .jtagBlink
  | .swdDrive _ => .swdDrive
  | .swdWrite _ _ => .swdWrite
  | .swdRead => .swdRead
  | .swdBlink _ => .swdBlink

/-- `{opcode, argc, arg}` (R60). -/
def commandWord (code argc : BitVec 8) (arg : BitVec 32) : CmdWord := code ++ argc ++ arg

/-- `{a0, a1, a2, a3}` (R60). -/
def argBytes (c : CfgArgs) : BitVec 32 := c.a0 ++ c.a1 ++ c.a2 ++ c.a3

/-- Three operand bits in `arg[2:0]`, the rest 0 (R61, R65). -/
def argBits (b2 b1 b0 : Bool) : BitVec 32 :=
  (0#29) ++ BitVec.ofBool b2 ++ BitVec.ofBool b1 ++ BitVec.ofBool b0

/-- The argument count of a command's word (R61). -/
def Instr.argc : Instr → BitVec 8
  | .jtagPins c | .jtagPinTck c | .jtagPinTms c | .jtagPinTdi c | .jtagPinTdo c | .jtagPinTrst c
  | .jtagPinSrst c | .jtagPinBlink c | .swdPins c | .swdPinSwclk c | .swdPinSwdio c => c.argc
  | .init | .quit | .speedSet _ | .speedGet | .jtagWrite _ _ _ | .jtagRead | .jtagReset _ _
  | .jtagBlink _ | .swdDrive _ | .swdWrite _ _ | .swdRead | .swdBlink _ => 0

/-- The low 32 bits of a command's word (R61, R65, R66). -/
def Instr.arg : Instr → BitVec 32
  | .jtagPins c | .jtagPinTck c | .jtagPinTms c | .jtagPinTdi c | .jtagPinTdo c | .jtagPinTrst c
  | .jtagPinSrst c | .jtagPinBlink c | .swdPins c | .swdPinSwclk c | .swdPinSwdio c => argBytes c
  | .init | .quit | .speedGet | .jtagRead | .swdRead => 0
  | .speedSet khz => khz
  | .jtagWrite tck tms tdi => argBits tms tdi tck
  | .jtagReset trst srst => argBits false srst trst
  | .swdWrite swclk swdio => argBits false swdio swclk
  | .jtagBlink on => argBits false false on
  | .swdDrive isOutput => argBits false false isOutput
  | .swdBlink on => argBits false false on

/-- The word of a command. -/
def encode (i : Instr) : CmdWord := commandWord i.op.code i.argc i.arg

/-! ### The serialised form, most significant byte first (20_memory R46) -/

/-- The six bytes of a command word, the opcode first. -/
def commandBytes (w : CmdWord) : List (BitVec 8) :=
  [w.extractLsb' 40 8, w.extractLsb' 32 8, w.extractLsb' 24 8, w.extractLsb' 16 8,
   w.extractLsb' 8 8, w.extractLsb' 0 8]

/-- The command that six bytes stand for; any other number of bytes is no command. -/
def decodeBytes : List (BitVec 8) → Except Illegal Instr
  | [b5, b4, b3, b2, b1, b0] => decode (b5 ++ b4 ++ b3 ++ b2 ++ b1 ++ b0)
  | bs => .error (.notSixBytes bs.length)

/-- The five bytes of a response word, the status first. -/
def responseBytes (r : RspWord) : List (BitVec 8) :=
  [r.extractLsb' 32 8, r.extractLsb' 24 8, r.extractLsb' 16 8, r.extractLsb' 8 8,
   r.extractLsb' 0 8]

/-! ### The opcode table's words -/

/-- The command word whose bits are the low `nbits` bits of `w`, in the table's numbering; a number
that does not fit 48 bits is no command word. -/
def tableWord (nbits w : Nat) : Option CmdWord :=
  if w % 2 ^ nbits < 2 ^ 48 then some (BitVec.ofNat 48 (w % 2 ^ nbits)) else none

/-- What the decoder reads from the instruction whose bits are `w`. -/
def decodeTableWord (nbits w : Nat) : Option Instr :=
  match tableWord nbits w with
  | some cmd =>
    match decode cmd with
    | .ok i => some i
    | .error _ => none
  | none => none

end Sys2Proof
end

