-- ==== Sys2Proof/Machine/Fetch.lean ====
section
/-! DEFINITION. What PINSEQ finds at its inputs before a step: reset (spec 70_reset R200), no command
(R202), a command, or an illegal word (30_encoding R68). PINSEQ has no program counter and no
instruction store: the next command is what HOST presents (10_state R15, 20_memory R55). -/

namespace Sys2Proof.Machine

/-- RESET (70_reset R200, 10_state R31): every piece of state at its reset value, the ports and the
observation empty, every pin released (R203). The machine's parameters and the lines the outside
drives stay; the epoch moves, so that the unspecified latches are drawn anew (log entry 15). -/
def applyReset (s : State) : State :=
  { State.reset with
    khz := s.params.khzReset
    delayCnt := s.params.delayCount
    trJtag := s.trJtag
    trSwd := s.trSwd
    allocOutOK := s.allocOutOK
    allocInOK := s.allocInOK
    env := s.env
    params := s.params
    epoch := s.epoch + 1 }

/-- The state in which a command runs: its word is taken off the port (00_scope R8). -/
def takeCommand (s : State) : State := { s with cmd := none }

/-- What a step finds. -/
inductive Fetched where
  /-- nothing to run: the state after the step -/
  | settled (s : State)
  /-- a command, and the state it runs in -/
  | command (i : Instr) (s : State)
  /-- an illegal word, why, and the state it is answered in -/
  | illegal (why : Illegal) (s : State)

/-- Look at the reset input, then at the command port. -/
def fetch (s : State) : Fetched :=
  if s.resetIn then .settled (applyReset s)
  else
    match s.cmd with
    | none => .settled s
    | some w =>
      match decode w with
      | .ok i => .command i (takeCommand s)
      | .error why => .illegal why (takeCommand s)

/-- The answer to an illegal word: `ERR_ILLEGAL`, `data = 0`, no other effect, whatever the reason
(30_encoding R68, 60_exceptions R176). -/
def illegalRun (s : State) : Run (BitVec 32) := .raised .errIllegal 0 s

/-- HOST presents the word `w` on the command port, and the reset input is not asserted. -/
def presentWord (s : State) (w : CmdWord) : State := { s with cmd := some w, resetIn := false }

end Sys2Proof.Machine
end

