-- ==== Sys2Proof/Machine/Step.lean ====
section
/-! DEFINITION. One step of PINSEQ: the command on the port runs to completion and is answered (spec
00_scope R8); with an empty port PINSEQ waits (70_reset R202). -/

namespace Sys2Proof.Machine

/-- One step. -/
def step (s : State) : Host.Outcome State Fault Refusal :=
  match fetch s with
  | .settled t => .next t
  | .command i t => exec i t
  | .illegal _ t => (illegalRun t).answer

/-- The state with the word whose bits are `w` on the command port, where step takes it. -/
def State.withFetchWord (s : State) (nbits w : Nat) : State :=
  presentWord s (BitVec.ofNat 48 (w % 2 ^ nbits))

end Sys2Proof.Machine
end

