-- ==== Sys2Proof/Machine/HostPort.lean ====
section
/-! DEFINITION. What the outside does between steps (spec 00_scope R8, 70_reset R205): HOST presents
command words, drives the straps and the reset input; the platform sets whether it grants the
bundles; ENV chooses how samples are answered. A session is a list of such actions, each followed by
one step. One word at a time, run to completion: the premise OneCommandAtATime (R210) holds by
construction. And which transport's primitives HOST issues in a session (R213). -/

namespace Sys2Proof.Machine

/-- One action of the outside. -/
inductive HostAction where
  /-- HOST presents a command word (R8). -/
  | present (w : CmdWord)
  /-- HOST drives `TR_JTAG` and `TR_SWD` (10_state R18). -/
  | straps (jtag swd : Bool)
  /-- The platform sets `AllocOutOK` and `AllocInOK` (44_lifecycle R146). -/
  | grants (out inp : Bool)
  /-- ENV's way of answering samples (10_state R26). -/
  | environment (e : Env)
  /-- HOST asserts reset (70_reset R200). -/
  | assertReset
  deriving DecidableEq, Repr

/-- The inputs after an action. -/
def hostAct (a : HostAction) (s : State) : State :=
  match a with
  | .present w => { s with cmd := some w }
  | .straps jtag swd => { s with trJtag := jtag, trSwd := swd }
  | .grants out inp => { s with allocOutOK := out, allocInOK := inp }
  | .environment e => { s with env := e }
  | .assertReset => { s with resetIn := true }

/-- A session: each action, then one step, until the first stop. -/
def session : List HostAction → State → Host.Outcome State Fault Refusal
  | [], s => .next s
  | a :: rest, s =>
    match step (hostAct a s) with
    | .next t => session rest t
    | .fault f => .fault f
    | .refused r => .refused r

/-- A session whose actions are command words only. -/
def commands (ws : List CmdWord) (s : State) : Host.Outcome State Fault Refusal :=
  session (ws.map .present) s

/-! ### One transport per session (70_reset R213) -/

/-- The two families of primitives. -/
inductive Transport where
  /-- 41_jtag_primitives -/
  | jtag
  /-- 42_swd_primitives -/
  | swd
  deriving DecidableEq, Repr

/-- The family a primitive belongs to; no other command belongs to one. -/
def primitiveTransport : Instr → Option Transport
  | .jtagWrite _ _ _ | .jtagRead | .jtagReset _ _ | .jtagBlink _ => some .jtag
  | .swdDrive _ | .swdWrite _ _ | .swdRead | .swdBlink _ => some .swd
  | .jtagPins _ | .jtagPinTck _ | .jtagPinTms _ | .jtagPinTdi _ | .jtagPinTdo _ | .jtagPinTrst _
  | .jtagPinSrst _ | .jtagPinBlink _ | .swdPins _ | .swdPinSwclk _ | .swdPinSwdio _ | .init
  | .quit | .speedSet _ | .speedGet => none

/-- The family whose primitive the next step runs while both paths are installed, if it runs one. With
one path or none installed the rule asks nothing of HOST: the other family's primitives have no effect
(44_lifecycle R149). -/
def transportUsed (s : State) : Option Transport :=
  match fetch s with
  | .command i t => if t.jtagOn && t.swdOn then primitiveTransport i else none
  | .settled _ => none
  | .illegal _ _ => none

/-- HOST keeps to one family from `s` on, `f` being the family it has used in the session so far, if
any. A reset ends the session, so the next one is free again (R200, R213). -/
def keepsOneTransport (f : Option Transport) : List HostAction → State → Bool
  | [], _ => true
  | a :: rest, s =>
    (transportUsed (hostAct a s)).all (fun g => f.all (fun g' => g' == g)) &&
    match step (hostAct a s) with
    | .next t =>
      keepsOneTransport
        (if (hostAct a s).resetIn then none else (transportUsed (hostAct a s)).or f) rest t
    | .fault _ => true
    | .refused _ => true

end Sys2Proof.Machine
end

