-- ==== Sys2Proof/WellFormed.lean ====
section
/-! DEFINITION. Well-formedness. Every Instr is well formed by its type: its fields have exactly the
widths of R61, R65 and R66, and an argument count of any value is legal to encode (R61). What can be
ill formed is a command WORD (30_encoding R61, R67, R68), checked here against the mask and match
columns of the opcode table, and a parameter record (00_scope R5). -/

namespace Sys2Proof

/-- A row of the opcode table: a word selects it when `w &&& mask = bits` (30_encoding R67). -/
structure OpRow where
  mnemonic : String
  mask : CmdWord
  bits : CmdWord
  deriving DecidableEq, Repr

/-- The configuration rows of R67. -/
def configRows : List OpRow :=
  [⟨"JTAG_PINS", 0xFF0000000000, 0x100000000000⟩,
   ⟨"JTAG_PIN_TCK", 0xFF0000000000, 0x110000000000⟩,
   ⟨"JTAG_PIN_TMS", 0xFF0000000000, 0x120000000000⟩,
   ⟨"JTAG_PIN_TDI", 0xFF0000000000, 0x130000000000⟩,
   ⟨"JTAG_PIN_TDO", 0xFF0000000000, 0x140000000000⟩,
   ⟨"JTAG_PIN_TRST", 0xFF0000000000, 0x150000000000⟩,
   ⟨"JTAG_PIN_SRST", 0xFF0000000000, 0x160000000000⟩,
   ⟨"JTAG_PIN_BLINK", 0xFF0000000000, 0x170000000000⟩,
   ⟨"SWD_PINS", 0xFF0000000000, 0x180000000000⟩,
   ⟨"SWD_PIN_SWCLK", 0xFF0000000000, 0x190000000000⟩,
   ⟨"SWD_PIN_SWDIO", 0xFF0000000000, 0x1A0000000000⟩]

/-- The lifecycle, speed and primitive rows of R67. -/
def actionRows : List OpRow :=
  [⟨"INIT", 0xFFFFFFFFFFFF, 0x200000000000⟩,
   ⟨"QUIT", 0xFFFFFFFFFFFF, 0x210000000000⟩,
   ⟨"SPEED_SET", 0xFFFF00000000, 0x300000000000⟩,
   ⟨"SPEED_GET", 0xFFFFFFFFFFFF, 0x310000000000⟩,
   ⟨"JTAG_WRITE", 0xFFFFFFFFFFF8, 0x400000000000⟩,
   ⟨"JTAG_READ", 0xFFFFFFFFFFFF, 0x410000000000⟩,
   ⟨"JTAG_RESET", 0xFFFFFFFFFFFC, 0x420000000000⟩,
   ⟨"JTAG_BLINK", 0xFFFFFFFFFFFE, 0x430000000000⟩,
   ⟨"SWD_DRIVE", 0xFFFFFFFFFFFE, 0x500000000000⟩,
   ⟨"SWD_WRITE", 0xFFFFFFFFFFFC, 0x510000000000⟩,
   ⟨"SWD_READ", 0xFFFFFFFFFFFF, 0x520000000000⟩,
   ⟨"SWD_BLINK", 0xFFFFFFFFFFFE, 0x530000000000⟩]

/-- The opcode table of R67, in its order. -/
def opcodeTable : List OpRow := configRows ++ actionRows

/-- The word selects the row (R67). -/
def OpRow.selects (r : OpRow) (w : CmdWord) : Bool := (w &&& r.mask) == r.bits

/-- A command word is well formed when it selects a row; any other word is illegal (R68). -/
def wordWellFormed (w : CmdWord) : Bool := opcodeTable.any (fun r => r.selects w)

/-- The bounds 00_scope R5 and 10_state R27 put on the parameters: `1 <= NPINS <= 255` and a
non-zero `KHZ_RESET`. -/
def Params.wf (ps : Params) : Bool :=
  decide (1 ≤ ps.npins) && decide (ps.npins ≤ 255) && (ps.khzReset != 0)

end Sys2Proof
end

