-- ==== Sys2Proof/Safety.lean ====
section
/-! DEFINITION. What a safe run is: HOST's duties as named premises (spec 70_reset_and_hazards R208 to
R215) and the invariant of the states a session reaches. The premises OneCommandAtATime (R210) and
SoleOwner (R211) hold by construction: the port takes one word, and no other agent writes a pin. -/

namespace Sys2Proof.Machine

/-! ### The configuration commands -/

/-- The signals a configuration command sets, in the order of its arguments, and its arguments
(40_pin_config R81 to R91); `none` for every other command. -/
def configCommand : Instr → Option (List Signal × CfgArgs)
  | .jtagPins c => some ([.tck, .tms, .tdi, .tdo], c)
  | .jtagPinTck c => some ([.tck], c)
  | .jtagPinTms c => some ([.tms], c)
  | .jtagPinTdi c => some ([.tdi], c)
  | .jtagPinTdo c => some ([.tdo], c)
  | .jtagPinTrst c => some ([.trst], c)
  | .jtagPinSrst c => some ([.srst], c)
  | .jtagPinBlink c => some ([.blink], c)
  | .swdPins c => some ([.swclk, .swdio], c)
  | .swdPinSwclk c => some ([.swclk], c)
  | .swdPinSwdio c => some ([.swdio], c)
  | .init | .quit | .speedSet _ | .speedGet | .jtagWrite _ _ _ | .jtagRead | .jtagReset _ _
  | .jtagBlink _ | .swdDrive _ | .swdWrite _ _ | .swdRead | .swdBlink _ => none

/-! ### Premises -/

/-- The pins a session uses, one entry per signal: the requested transports' and the assigned
optional ones (R212). -/
def usedPins (jtag swd : Bool) (pa : PinRegs) : List PinIdx :=
  (if jtag then [pa.tck, pa.tdi, pa.tms, pa.tdo] else []) ++
  (if swd then [pa.swclk, pa.swdio] else []) ++
  [pa.trst, pa.srst, pa.blink].filter (fun p => p != noPin)

/-- The pins INIT drives, one entry per signal (R214). -/
def drivenPins (jtag swd : Bool) (pa : PinRegs) : List PinIdx :=
  (if jtag then [pa.tdi, pa.tck, pa.tms] else []) ++
  (if swd then [pa.swdio, pa.swclk] else []) ++
  [pa.trst, pa.srst, pa.blink].filter (fun p => p != noPin)

/-- PinsDistinct (R212). -/
abbrev PinsDistinct (jtag swd : Bool) (s : State) : Prop := (usedPins jtag swd s.pa).Nodup

/-- DrivenPinsOutCapable (R214), which for the optional pins includes OptionalPinsValid (R215). -/
abbrev DrivenPinsOutCapable (jtag swd : Bool) (s : State) : Prop :=
  ∀ p ∈ drivenPins jtag swd s.pa, pinOutCapable s.params p = true

/-- OptionalPinsValid (R215). -/
abbrev OptionalPinsValid (s : State) : Prop :=
  ∀ p ∈ [s.pa.trst, s.pa.srst, s.pa.blink], p ≠ noPin → pinValid s.params p = true

/-- SwdDirection for a read (R208). -/
abbrev SwdReadDirection (s : State) : Prop := s.direction s.pa.swdio.toNat = some .input

/-- SwdDirection for a write (R208). -/
abbrev SwdWriteDirection (s : State) : Prop := s.direction s.pa.swdio.toNat = some .output

/-- ConfigBeforeInit (R209), for a configuration set. -/
abbrev ConfigBeforeInit (s : State) : Prop := s.life = .unconfigured

/-- Both paths are installed, which INIT allows (44_lifecycle R150). -/
abbrev BothPathsInstalled (s : State) : Prop := s.jtagOn = true ∧ s.swdOn = true

/-- OneTransportPerSession (R213): in each session of what HOST does from `s` on, the primitives it
issues while both paths are installed are all of one family (44_lifecycle R150, log entry 12). -/
abbrev OneTransportPerSession (acts : List HostAction) (s : State) : Prop :=
  keepsOneTransport none acts s = true

/-! ### The invariant -/

/-- Pin number `p` is the number of a pin the platform calls usable (00_scope R5). -/
def PinExists (ps : Params) (p : Nat) : Prop := ∃ q : PinIdx, q.toNat = p ∧ pinValid ps q = true

/-- The registers: bounds and ties that hold in every state a session reaches. -/
structure RegInv (s : State) : Prop where
  /-- 00_scope R5. -/
  params_wf : s.params.wf = true
  /-- `KHZ` is never 0 (10_state R27). -/
  khz_ne_zero : s.khz ≠ 0
  /-- `DELAY_CNT` equals `DELAY_COUNT` from reset on (10_state R28). -/
  delay_fixed : s.delayCnt = s.params.delayCount
  /-- No command starts in `VALIDATED` (10_state R16). -/
  life_ne_validated : s.life ≠ .validated
  /-- A path is installed exactly in `ACTIVE` (10_state R17, 44_lifecycle R149, R151). -/
  on_iff_active : (s.jtagOn = true ∨ s.swdOn = true) ↔ s.life = .active
  /-- The bundles exist exactly while the JTAG path is installed (10_state R23). -/
  ob_alloc : s.obAlloc = s.jtagOn
  /-- The same for the input bundle. -/
  ib_alloc : s.ibAlloc = s.jtagOn
  /-- The slots hold the assigned pins in R20's order; `PA` cannot have changed since (R13). -/
  slots_on : s.jtagOn = true → s.oslot = bundlePins s.pa ∧ s.islot = s.pa.tdo
  /-- Without a bundle every slot is `ABSENT` (R19, R22). -/
  slots_off : s.jtagOn = false →
    s.oslot = #v[noPin, noPin, noPin, noPin, noPin, noPin] ∧ s.islot = noPin
  /-- What INIT validated (44_lifecycle R141). -/
  jtag_checked : s.jtagOn = true → canOperateJtag s = true
  /-- What INIT drove (20_memory R41). -/
  driven_capable : s.life = .active → DrivenPinsOutCapable s.jtagOn s.swdOn s

/-- The pins: the canonical form, and who is an input or an output during a session. -/
structure PinInv (s : State) : Prop where
  dir_wf : PinMap.WF s.dir
  lvl_wf : PinMap.WF s.lvl
  /-- Only pins of the platform have been touched. -/
  dir_exists : ∀ e ∈ s.dir, PinExists s.params e.1
  lvl_exists : ∀ e ∈ s.lvl, PinExists s.params e.1
  /-- Before INIT no pin is touched (70_reset R201). -/
  untouched : s.life = .unconfigured → s.dir = [] ∧ s.lvl = [] ∧ s.trace = []
  /-- TCK, TDI and TMS stay outputs, unless TDO or SWDIO is on the same pin (44_lifecycle R145). -/
  jtag_outputs : s.jtagOn = true → ∀ p ∈ [s.pa.tck, s.pa.tdi, s.pa.tms],
    p ≠ s.pa.tdo → (s.swdOn = true → p ≠ s.pa.swdio) → s.direction p.toNat = some .output
  /-- TDO stays an input, unless a driven pin set up after it is on the same pin (R146). -/
  tdo_input : s.jtagOn = true → s.pa.tdo ∉ [s.pa.trst, s.pa.srst, s.pa.blink] →
    (s.swdOn = true → s.pa.tdo ≠ s.pa.swclk ∧ s.pa.tdo ≠ s.pa.swdio) →
    s.direction s.pa.tdo.toNat = some .input
  /-- SWCLK is an output for the whole session (42_swd R116), unless SWDIO is on the same pin. -/
  swclk_output : s.swdOn = true → s.pa.swclk ≠ s.pa.swdio →
    s.direction s.pa.swclk.toNat = some .output
  /-- Every assigned optional pin is an output (R148), unless SWDIO is on the same pin. -/
  optional_outputs : s.life = .active → ∀ p ∈ [s.pa.trst, s.pa.srst, s.pa.blink],
    p ≠ noPin → (s.swdOn = true → p ≠ s.pa.swdio) → s.direction p.toNat = some .output

/-- The invariant. -/
def SessionInv (s : State) : Prop := RegInv s ∧ PinInv s

end Sys2Proof.Machine
end

