-- ==== Sys2Proof/Certificates/Slice0/Obligations.lean ====
section
/-! DEFINITION. The statements for the provers, from the numbered rules of spec/. First the vocabulary
they are written in, then one def Obligations.<Name> per statement. -/

namespace Sys2Proof.Claims

open Sys2Proof Sys2Proof.Machine

/-! ### Vocabulary -/

/-- The mnemonic of a command's row (30_encoding R67). -/
def mnemonicOf : Instr → String
  | .jtagPins _ => "JTAG_PINS"
  | .jtagPinTck _ => "JTAG_PIN_TCK"
  | .jtagPinTms _ => "JTAG_PIN_TMS"
  | .jtagPinTdi _ => "JTAG_PIN_TDI"
  | .jtagPinTdo _ => "JTAG_PIN_TDO"
  | .jtagPinTrst _ => "JTAG_PIN_TRST"
  | .jtagPinSrst _ => "JTAG_PIN_SRST"
  | .jtagPinBlink _ => "JTAG_PIN_BLINK"
  | .swdPins _ => "SWD_PINS"
  | .swdPinSwclk _ => "SWD_PIN_SWCLK"
  | .swdPinSwdio _ => "SWD_PIN_SWDIO"
  | .init => "INIT"
  | .quit => "QUIT"
  | .speedSet _ => "SPEED_SET"
  | .speedGet => "SPEED_GET"
  | .jtagWrite _ _ _ => "JTAG_WRITE"
  | .jtagRead => "JTAG_READ"
  | .jtagReset _ _ => "JTAG_RESET"
  | .jtagBlink _ => "JTAG_BLINK"
  | .swdDrive _ => "SWD_DRIVE"
  | .swdWrite _ _ => "SWD_WRITE"
  | .swdRead => "SWD_READ"
  | .swdBlink _ => "SWD_BLINK"

/-- The number of arguments of a set, as an `argc` value (40_pin_config R80). -/
def setCount (sigs : List Signal) : BitVec 8 := BitVec.ofNat 8 sigs.length

/-- The status codes a command can answer with (30_encoding R63, column "raised by"). -/
def possibleStatuses : Instr → List (BitVec 8)
  | .jtagPins _ | .jtagPinTck _ | .jtagPinTms _ | .jtagPinTdi _ | .jtagPinTdo _ | .jtagPinTrst _
  | .jtagPinSrst _ | .jtagPinBlink _ | .swdPins _ | .swdPinSwclk _ | .swdPinSwdio _ =>
    [0x00, 0x01, 0x05]
  | .init => [0x00, 0x02, 0x04, 0x05]
  | .quit | .speedGet => [0x00]
  | .speedSet _ => [0x00, 0x03]
  | .jtagWrite _ _ _ | .jtagRead | .jtagReset _ _ | .jtagBlink _ | .swdDrive _ | .swdWrite _ _
  | .swdRead | .swdBlink _ => [0x00, 0x05]

/-- `t` answers one word more than `s`, the word `r`. -/
def Answers (s t : State) (r : RspWord) : Prop := t.responses = s.responses ++ [r]

/-- The status byte of a response word (30_encoding R62). -/
def statusByte (r : RspWord) : BitVec 8 := r.extractLsb' 32 8

/-- The values of 10_state R31, for a machine with the parameters `ps`. -/
def AtResetValues (ps : Params) (t : State) : Prop :=
  (∀ x : Signal, t.pa.get x = 0xFF) ∧ t.life = .unconfigured ∧
  t.jtagOn = false ∧ t.swdOn = false ∧ t.obAlloc = false ∧ t.ibAlloc = false ∧
  (∀ i : Fin 6, t.oslot[i] = 0xFF) ∧ t.islot = 0xFF ∧
  (∀ p, t.direction p = none) ∧ (∀ p, t.level p = Config.lvlReset t.epoch p) ∧
  t.khz = ps.khzReset ∧ t.delayCnt = ps.delayCount ∧ t.trace = []

/-- What the slots of one atomic bundle write, with the bit given to each, do to the latches, and
the set `upd` of its event (20_memory R44): a selected present slot's pin takes its bit; a pin to
which the write gives both bits takes a free value; every other latch is kept. -/
def OneBundleWrite (s t : State) (writes : List (Fin 6 × Bool)) (upd : List (Nat × Bool)) : Prop :=
  (∀ e ∈ writes, s.oslot[e.1] ≠ noPin →
    (∀ e' ∈ writes, s.oslot[e'.1] = s.oslot[e.1] → e'.2 = e.2) →
    t.level s.oslot[e.1].toNat = e.2 ∧ (s.oslot[e.1].toNat, e.2) ∈ upd) ∧
  (∀ e ∈ writes, ∀ e' ∈ writes, s.oslot[e.1] ≠ noPin →
    s.oslot[e'.1] = s.oslot[e.1] → e'.2 ≠ e.2 →
    t.level s.oslot[e.1].toNat =
      Config.sharedPinLevel s.epoch s.trace s.oslot[e.1].toNat ∧
    (s.oslot[e.1].toNat, Config.sharedPinLevel s.epoch s.trace s.oslot[e.1].toNat) ∈ upd) ∧
  (∀ p, (∀ e ∈ writes, s.oslot[e.1] ≠ noPin → s.oslot[e.1].toNat ≠ p) →
    t.level p = s.level p ∧ ∀ b, (p, b) ∉ upd) ∧
  (∀ e ∈ upd, t.level e.1 = e.2)

/-- The event of a bundle write of one slot: the slot's pin, or nothing when it is absent. -/
def oneSlotEvent (s : State) (i : Fin 6) (b : Bool) : Event :=
  .drv (if s.oslot[i] = noPin then [] else [(s.oslot[i].toNat, b)])

/-- The latch of pin `p` after the slot `i` was given the bit `b`, `old` being the latch before. -/
def afterSlot (s : State) (i : Fin 6) (b : Bool) (p : Nat) (old : Bool) : Bool :=
  if s.oslot[i] ≠ noPin ∧ p = s.oslot[i].toNat then b else old

/-- What a sample of pad `p` in state `s` can return, and the environment after it: the free draw of
ENV for an undriven pad (10_state R26), another free value for a pin that is an output (20_memory
R43, 93 U3), the latch under LOOPBACK, the next answer of a script. -/
def SampleGives (s : State) (p : Nat) (b : Bool) (e : Env) : Prop :=
  (s.env = .loopback → b = s.level p ∧ e = .loopback) ∧
  (∀ x rest, s.env = .script (x :: rest) → b = x ∧ e = .script rest) ∧
  ((s.env = .free ∨ s.env = .script []) → e = s.env ∧
    b = if s.direction p = some .output then Config.drivenRead s.epoch s.trace p
        else Config.padIn s.epoch s.trace p)

/-- The two events of `SetOut` (44_lifecycle R143). -/
def setOutEvents (p : PinIdx) (b : Bool) : List Event :=
  [.dir p.toNat .output, .drv [(p.toNat, b)]]

/-- The events of `SetupJtagPins` (44_lifecycle R145). -/
def jtagSetupEvents (pa : PinRegs) : List Event :=
  setOutEvents pa.tdi false ++ setOutEvents pa.tck false ++ setOutEvents pa.tms true

/-- The events of one optional pin (44_lifecycle R148). -/
def optionalEvents (p : PinIdx) (b : Bool) : List Event :=
  if p = noPin then [] else setOutEvents p b

/-- The events of a successful INIT (44_lifecycle R155), a reset line at its deasserted level. -/
def initEvents (j w : Bool) (s : State) : List Event :=
  (if j then jtagSetupEvents s.pa ++ [.dir s.pa.tdo.toNat .input] else []) ++
  (if w then setOutEvents s.pa.swdio false ++ setOutEvents s.pa.swclk false else []) ++
  optionalEvents s.pa.trst (!s.params.trstAssertLevel) ++
  optionalEvents s.pa.srst (!s.params.srstAssertLevel) ++
  optionalEvents s.pa.blink false

/-- The direction of pin `q` after a successful INIT from `s`: the LAST phase that names the pin decides
(44_lifecycle R145 to R148, R150). The optional pins come last, then SWD, then TDO, then the JTAG
outputs. -/
def initDirection (s : State) (q : Nat) : Option Drive :=
  if (∃ x ∈ [Signal.trst, .srst, .blink], s.pa.get x ≠ noPin ∧ q = (s.pa.get x).toNat) ∨
      (s.trSwd = true ∧ (q = s.pa.swclk.toNat ∨ q = s.pa.swdio.toNat)) then some .output
  else if s.trJtag = true ∧ q = s.pa.tdo.toNat then some .input
  else if s.trJtag = true ∧ (q = s.pa.tms.toNat ∨ q = s.pa.tck.toNat ∨ q = s.pa.tdi.toNat) then
    some .output
  else s.direction q

/-- The latch of pin `q` after a successful INIT from `s`: the LAST phase that drives the pin decides;
within a phase the spec's own order D15 does (TMS after TCK and TDI; BLINK after SRST after TRST; log
entry 20). -/
def initLevel (s : State) (q : Nat) : Bool :=
  if s.pa.blink ≠ noPin ∧ q = s.pa.blink.toNat then false
  else if s.pa.srst ≠ noPin ∧ q = s.pa.srst.toNat then !s.params.srstAssertLevel
  else if s.pa.trst ≠ noPin ∧ q = s.pa.trst.toNat then !s.params.trstAssertLevel
  else if s.trSwd = true ∧ (q = s.pa.swclk.toNat ∨ q = s.pa.swdio.toNat) then false
  else if s.trJtag = true ∧ q = s.pa.tms.toNat then true
  else if s.trJtag = true ∧ (q = s.pa.tck.toNat ∨ q = s.pa.tdi.toNat) then false
  else s.level q

/-- The straps request a transport and pass the validator (44_lifecycle R144). -/
def StrapsValid (s : State) : Prop :=
  (s.trJtag = true ∨ s.trSwd = true) ∧
  (s.trJtag = true → canOperateJtag s = true) ∧ (s.trSwd = true → canOperateSwd s = true)

/-- The platform grants the bundles a JTAG session needs (44_lifecycle R146). -/
def BundlesGranted (s : State) : Prop :=
  s.trJtag = true → s.allocOutOK = true ∧ s.allocInOK = true

end Sys2Proof.Claims

open Sys2Proof Sys2Proof.Machine Sys2Proof.Claims

/-! ### Encoding -/

/-- Decoding the word of a command gives the command back, every operand at every value
(30_encoding R60, R61, R64, R65, R66). -/
def Obligations.DecodeInvertsEncode : Prop := ∀ i : Instr, decode (encode i) = .ok i

/-- No bit of a legal word is dropped: a word that decodes is the word of what it decodes to
(30_encoding R60, R61). -/
def Obligations.EncodeInvertsDecode : Prop :=
  ∀ (w : CmdWord) (i : Instr), decode w = .ok i → encode i = w

/-- The decoder and the mask and match columns of R67 agree: a word that decodes selects exactly one
row, the row of its command; a word that is illegal selects none. The word layout and the opcode
numbers are the spec's own (92 D2). -/
def Obligations.DecoderAgreesWithOpcodeTable : Prop :=
  ∀ w : CmdWord,
    (∀ i, decode w = .ok i →
      (opcodeTable.filter (fun r => (w &&& r.mask) == r.bits)).map OpRow.mnemonic =
        [mnemonicOf i]) ∧
    (∀ why, decode w = .error why →
      opcodeTable.filter (fun r => (w &&& r.mask) == r.bits) = [])

/-- The bit operands of format B, each read from its place in the word, every other bit of `arg` being
0; the three bits of JTAG_WRITE are the bundle value unchanged (30_encoding R65). -/
def Obligations.BitOperandsHaveTheirPlaces : Prop :=
  ∀ w : CmdWord,
    let zeroFrom : Nat → Prop := fun n => ∀ k, n ≤ k → k < 32 → w.getLsbD k = false
    (∀ tck tms tdi, decode w = .ok (.jtagWrite tck tms tdi) →
      tck = w.getLsbD 0 ∧ tdi = w.getLsbD 1 ∧ tms = w.getLsbD 2 ∧ zeroFrom 3 ∧
      jtagWriteValue tck tms tdi = (w.extractLsb' 0 3).setWidth 6) ∧
    (∀ trst srst, decode w = .ok (.jtagReset trst srst) →
      trst = w.getLsbD 0 ∧ srst = w.getLsbD 1 ∧ zeroFrom 2) ∧
    (∀ on, decode w = .ok (.jtagBlink on) → on = w.getLsbD 0 ∧ zeroFrom 1) ∧
    (∀ isOutput, decode w = .ok (.swdDrive isOutput) → isOutput = w.getLsbD 0 ∧ zeroFrom 1) ∧
    (∀ swclk swdio, decode w = .ok (.swdWrite swclk swdio) →
      swclk = w.getLsbD 0 ∧ swdio = w.getLsbD 1 ∧ zeroFrom 2) ∧
    (∀ on, decode w = .ok (.swdBlink on) → on = w.getLsbD 0 ∧ zeroFrom 1)

/-- The worked encodings of R72: ten command words decode to the commands they stand for, the JTAG_WRITE
with its operands in bits 0, 1, 2 as R72 says; the response with no data and ERR_SYNTAX's word. -/
def Obligations.WorkedEncodingsDecode : Prop :=
  decode 0x100404050607 = .ok (.jtagPins ⟨4, 4, 5, 6, 7⟩) ∧
  decode 0x100000000000 = .ok (.jtagPins ⟨0, 0, 0, 0, 0⟩) ∧
  decode 0x18020A0B0000 = .ok (.swdPins ⟨2, 10, 11, 0, 0⟩) ∧
  decode 0x150108000000 = .ok (.jtagPinTrst ⟨1, 8, 0, 0, 0⟩) ∧
  decode 0x200000000000 = .ok .init ∧
  decode 0x3000000003E8 = .ok (.speedSet 1000) ∧
  decode 0x400000000003 = .ok (.jtagWrite (tck := true) (tms := false) (tdi := true)) ∧
  decode 0x400000000005 = .ok (.jtagWrite (tck := true) (tms := true) (tdi := false)) ∧
  decode 0x420000000001 = .ok (.jtagReset (trst := true) (srst := false)) ∧
  decode 0x510000000001 = .ok (.swdWrite (swclk := true) (swdio := false)) ∧
  responseWord .ok 0 = 0x0000000000 ∧ responseWord .errSyntax 0 = 0x0100000000

/-- A command serialised most significant byte first decodes as its word does, and no other number
of bytes is a command (20_memory R46, 30_encoding R60). -/
def Obligations.SerialisedCommandsDecode : Prop :=
  (∀ w : CmdWord, decodeBytes (commandBytes w) = decode w) ∧
  (∀ bs : List (BitVec 8), bs.length ≠ 6 → decodeBytes bs = .error (.notSixBytes bs.length))

/-- The response word: status in 39:32, data in 31:0, seven different status codes, and pin values
from the top byte of data (30_encoding R62, R63, R64). -/
def Obligations.ResponseWordFields : Prop :=
  (∀ st d, statusByte (responseWord st d) = st.code ∧ (responseWord st d).extractLsb' 0 32 = d) ∧
  (∀ st st' : Status, st.code = st'.code → st = st') ∧
  (∀ a b c d : PinIdx, packPins [a, b, c, d] = a ++ b ++ c ++ d) ∧
  (∀ a b : PinIdx, packPins [a, b] = a ++ b ++ (0 : BitVec 16)) ∧
  (∀ a : PinIdx, packPins [a] = a ++ (0 : BitVec 24))

/-! ### The step -/

/-- A step runs the decoded command, in the state with the command port emptied (log entry 13). -/
def Obligations.StepRunsTheDecodedCommand : Prop :=
  ∀ (s : State) (w : CmdWord) (i : Instr),
    s.resetIn = false → s.cmd = some w → decode w = .ok i →
    step s = exec i { s with cmd := none }

/-- A word placed by withFetchWord is what the next step decodes and runs (log entry 24). -/
def Obligations.PlacedWordIsRunNext : Prop :=
  ∀ (s : State) (w : Nat) (i : Instr), w < 2 ^ 48 → decodeTableWord 48 w = some i →
    step (s.withFetchWord 48 w) = exec i { s with cmd := none, resetIn := false }

/-- A command word that matches no row of the opcode table: `ERR_ILLEGAL`, data 0, state unchanged
but for the word taken off the port (60_exceptions R176). -/
def Obligations.WordOfNoRowAnswersIllegal : Prop :=
  ∀ (s : State) (w : CmdWord), s.resetIn = false → s.cmd = some w →
    (∀ r ∈ opcodeTable, w &&& r.mask ≠ r.bits) →
    step s = .next { s with cmd := none, responses := s.responses ++ [0x0600000000] }

/-- With no command on the port PINSEQ waits (70_reset R202). -/
def Obligations.StepWaitsForACommand : Prop :=
  ∀ s : State, s.resetIn = false → s.cmd = none → step s = .next s

/-- After reset every piece of state has the value of R31's table, after power-on and after a reset
during operation alike; the latch of a pin is the free value of that reset. -/
def Obligations.ResetGivesTheTableOfValues : Prop :=
  AtResetValues Config.params State.reset ∧
  ∀ s : State, s.resetIn = true → ∃ t, step s = .next t ∧ AtResetValues s.params t

/-- A step that leaves SHUTDOWN is a reset, and a reset leaves it (44_lifecycle R151, 70_reset
R200). -/
def Obligations.OnlyResetLeavesShutdown : Prop :=
  ∀ s t : State, step s = .next t → s.life = .shutdown →
    (t.life ≠ .shutdown ↔ s.resetIn = true)

/-- No command moves LIFE backwards; it moves only by INIT, out of UNCONFIGURED to ACTIVE or
SHUTDOWN, and by QUIT, to SHUTDOWN; VALIDATED is never the state after a command that did not start
in it (44_lifecycle R140, 10_state R16). -/
def Obligations.LifeMovesForwardOnly : Prop :=
  ∀ (i : Instr) (s t : State), exec i s = .next t →
    s.life.code.toNat ≤ t.life.code.toNat ∧
    (t.life ≠ s.life →
      (i = .init ∧ s.life = .unconfigured ∧ (t.life = .active ∨ t.life = .shutdown)) ∨
      (i = .quit ∧ t.life = .shutdown))

/-! ### Configuration commands -/

/-- Each of the eleven sets, with its full argument count in UNCONFIGURED, writes exactly its
registers and answers with them (40_pin_config R81 to R91). -/
def Obligations.ConfigSetsWriteTheirRegisters : Prop :=
  ∀ (s : State) (a b c d : PinIdx), s.life = .unconfigured →
    let one : CfgArgs := ⟨1, a, b, c, d⟩
    let answer : RspWord := (0 : BitVec 8) ++ a ++ (0 : BitVec 24)
    let after : PinRegs → State :=
      fun r => { s with pa := r, responses := s.responses ++ [answer] }
    exec (.jtagPins ⟨4, a, b, c, d⟩) s = .next { s with
      pa := { s.pa with tck := a, tms := b, tdi := c, tdo := d }
      responses := s.responses ++ [(0 : BitVec 8) ++ a ++ b ++ c ++ d] } ∧
    exec (.swdPins ⟨2, a, b, c, d⟩) s = .next { s with
      pa := { s.pa with swclk := a, swdio := b }
      responses := s.responses ++ [(0 : BitVec 8) ++ a ++ b ++ (0 : BitVec 16)] } ∧
    exec (.jtagPinTck one) s = .next (after { s.pa with tck := a }) ∧
    exec (.jtagPinTms one) s = .next (after { s.pa with tms := a }) ∧
    exec (.jtagPinTdi one) s = .next (after { s.pa with tdi := a }) ∧
    exec (.jtagPinTdo one) s = .next (after { s.pa with tdo := a }) ∧
    exec (.jtagPinTrst one) s = .next (after { s.pa with trst := a }) ∧
    exec (.jtagPinSrst one) s = .next (after { s.pa with srst := a }) ∧
    exec (.jtagPinBlink one) s = .next (after { s.pa with blink := a }) ∧
    exec (.swdPinSwclk one) s = .next (after { s.pa with swclk := a }) ∧
    exec (.swdPinSwdio one) s = .next (after { s.pa with swdio := a })

/-- With zero arguments each of the eleven is a query, accepted in every lifecycle state: it answers
with its registers and changes nothing (40_pin_config R80). -/
def Obligations.ConfigQueriesAnswerTheRegisters : Prop :=
  ∀ (i : Instr) (sigs : List Signal) (c : CfgArgs) (s : State),
    configCommand i = some (sigs, c) → c.argc = 0 →
    exec i s = .next { s with
      responses := s.responses ++ [(0 : BitVec 8) ++ packPins (sigs.map s.pa.get)] }

/-- ConfigurationError: a count that is neither 0 nor the command's answers `ERR_SYNTAX` with data 0
and changes nothing, for each of the eleven and in every lifecycle state; no other command answers
it (60_exceptions R171). -/
def Obligations.WrongArgumentCountIsASyntaxError : Prop :=
  (∀ (i : Instr) (sigs : List Signal) (c : CfgArgs) (s : State),
    configCommand i = some (sigs, c) → c.argc ≠ 0 → c.argc ≠ setCount sigs →
    exec i s = .next { s with responses := s.responses ++ [0x0100000000] }) ∧
  (∀ (i : Instr) (s t : State) (r : RspWord), exec i s = .next t → Answers s t r →
    statusByte r = 0x01 →
    ∃ sigs c, configCommand i = some (sigs, c) ∧ c.argc ≠ 0 ∧ c.argc ≠ setCount sigs)

/-- THE SPEC'S OWN STATUS (92 D8, 93 U1; log entry 11): a set issued outside UNCONFIGURED answers
`ERR_UNAVAILABLE` and writes nothing. -/
def Obligations.LateConfigurationSetsAreRejected : Prop :=
  ∀ (i : Instr) (sigs : List Signal) (c : CfgArgs) (s : State),
    configCommand i = some (sigs, c) → c.argc = setCount sigs → s.life ≠ .unconfigured →
    exec i s = .next { s with responses := s.responses ++ [0x0500000000] }

/-- Every configuration command is idempotent: the second of two equal ones changes nothing more and
answers the same; and a query changes nothing (40_pin_config R92). -/
def Obligations.ConfigCommandsAreIdempotent : Prop :=
  ∀ (i : Instr) (sigs : List Signal) (c : CfgArgs) (s : State),
    configCommand i = some (sigs, c) →
    ∃ t r, exec i s = .next t ∧ Answers s t r ∧
      exec i t = .next { t with responses := t.responses ++ [r] } ∧
      (c.argc = 0 → t = { s with responses := t.responses })

/-- The pin-assignment registers are written only by the eleven configuration commands, and only in
UNCONFIGURED; no primitive writes them (10_state R13). -/
def Obligations.PinRegistersChangeOnlyBeforeInit : Prop :=
  ∀ (i : Instr) (s t : State), exec i s = .next t → t.pa ≠ s.pa →
    (configCommand i).isSome = true ∧ s.life = .unconfigured

/-- A configuration command changes its own registers and answers, and nothing else: no other
register, no pin, no bundle, not KHZ, not LIFE, no event (40_pin_config, header). -/
def Obligations.ConfigCommandsTouchNothingElse : Prop :=
  ∀ (i : Instr) (sigs : List Signal) (c : CfgArgs) (s t : State),
    configCommand i = some (sigs, c) → exec i s = .next t →
    t = { s with pa := t.pa, responses := t.responses } ∧
    ∀ x : Signal, x ∉ sigs → t.pa.get x = s.pa.get x

/-! ### Speed -/

/-- SPEED_SET, accepted in every lifecycle state: a non-zero rate is recorded, all 32 bits, with
answer 0 (the effective flag); zero answers `ERR_UNSUPPORTED_SPEED`; nothing else changes
(43_speed R130). -/
def Obligations.SpeedSetRecordsOrRejects : Prop :=
  ∀ (s : State) (k : BitVec 32),
    (k ≠ 0 → exec (.speedSet k) s =
      .next { s with khz := k, responses := s.responses ++ [0x0000000000] }) ∧
    (k = 0 → exec (.speedSet k) s =
      .next { s with responses := s.responses ++ [0x0300000000] })

/-- SPEED_GET answers with the recorded value in every lifecycle state and writes nothing; after
reset that is KHZ_RESET, which is not 0 (43_speed R131, 10_state R27). -/
def Obligations.SpeedGetAnswersTheNominalRate : Prop :=
  (∀ s : State, exec .speedGet s =
    .next { s with responses := s.responses ++ [(0 : BitVec 8) ++ s.khz] }) ∧
  State.reset.khz = Config.params.khzReset ∧ State.reset.khz ≠ 0

/-- KHZ and DELAY_CNT are not connected: SPEED_SET writes KHZ only, and no value of KHZ changes any
pin event, any delay, or anything but KHZ itself and what SPEED_GET answers (43_speed R133). -/
def Obligations.NominalSpeedMovesNoPin : Prop :=
  (∀ (k : BitVec 32) (s t : State), exec (.speedSet k) s = .next t →
    t = { s with khz := t.khz, responses := t.responses }) ∧
  (∀ (i : Instr) (s : State) (k : BitVec 32),
    (∀ f, exec i s = .fault f → exec i { s with khz := k } = .fault f) ∧
    (∀ t, exec i s = .next t → ∃ u, exec i { s with khz := k } = .next u ∧
      u.trace = t.trace ∧ u.dir = t.dir ∧ u.lvl = t.lvl ∧ u.delayCnt = t.delayCnt ∧
      u = { t with khz := u.khz, responses := u.responses } ∧
      (i ≠ .speedGet → u.responses = t.responses)))

/-! ### INIT and QUIT -/

/-- INIT completes, whichever transports are requested, when the straps pass the validator, the
bundles are granted and every pin it drives is output-capable: the paths are installed, the slots
filled, the events are those of R155, in its order, and the direction and the latch of EVERY pin are
those of the last phase that names it, also where two signals are on one pin; nothing else changes.
With both transports the SWD setup runs later and its level wins: a TMS pin shared with SWDIO ends low,
not high, and a TDO pin shared with an SWD pin ends an output (44_lifecycle R143, R145 to R150, R155).
The order of the events, and which of two pins of one phase comes last, are the spec's own D15 (log
entry 20, DEDUCED); both transports in one INIT, D9 (log entry 12). -/
def Obligations.InitCompletesWithTheseEvents : Prop :=
  ∀ s : State, s.life = .unconfigured → StrapsValid s → BundlesGranted s →
    DrivenPinsOutCapable s.trJtag s.trSwd s →
    ∃ t, exec .init s = .next t ∧
      t.trace = s.trace ++ initEvents s.trJtag s.trSwd s ∧
      (∀ q, t.direction q = initDirection s q) ∧
      (∀ q, t.level q = initLevel s q) ∧
      (s.trJtag = true → s.trSwd = true →
        (s.pa.tms = s.pa.swdio → s.pa.tms ∉ [s.pa.trst, s.pa.srst, s.pa.blink] →
          t.level s.pa.tms.toNat = false ∧ t.bundleBit 2 = false) ∧
        (s.pa.tdo ∈ [s.pa.swclk, s.pa.swdio] →
          t.direction s.pa.tdo.toNat = some .output)) ∧
      t = { s with
        life := .active
        jtagOn := s.trJtag
        swdOn := s.trSwd
        obAlloc := s.trJtag || s.obAlloc
        ibAlloc := s.trJtag || s.ibAlloc
        oslot := if s.trJtag then
            #v[s.pa.tck, s.pa.tdi, s.pa.tms, s.pa.trst, s.pa.srst, s.pa.blink] else s.oslot
        islot := if s.trJtag then s.pa.tdo else s.islot
        dir := t.dir
        lvl := t.lvl
        trace := t.trace
        responses := s.responses ++ [0x0000000000] }

/-- The end state of a successful INIT with distinct pins: R154's table row by row, and what the
output bundle then reads; the directions and latches of all other pins are unchanged. Where two
signals are on one pin, InitCompletesWithTheseEvents says what that pin ends as. -/
def Obligations.InitReachesTheEndStateTable : Prop :=
  ∀ s : State, s.life = .unconfigured → StrapsValid s → BundlesGranted s →
    DrivenPinsOutCapable s.trJtag s.trSwd s → PinsDistinct s.trJtag s.trSwd s →
    ∃ t, exec .init s = .next t ∧
      let holds : PinIdx → Bool → Prop :=
        fun p b => t.direction p.toNat = some .output ∧ t.level p.toNat = b
      (s.trJtag = true →
        holds s.pa.tck false ∧ holds s.pa.tdi false ∧ holds s.pa.tms true ∧
        t.direction s.pa.tdo.toNat = some .input ∧
        t.level s.pa.tdo.toNat = s.level s.pa.tdo.toNat ∧
        t.oslot = #v[s.pa.tck, s.pa.tdi, s.pa.tms, s.pa.trst, s.pa.srst, s.pa.blink] ∧
        t.islot = s.pa.tdo) ∧
      (s.trSwd = true → holds s.pa.swdio false ∧ holds s.pa.swclk false) ∧
      (s.pa.trst ≠ noPin → holds s.pa.trst (!s.params.trstAssertLevel)) ∧
      (s.pa.srst ≠ noPin → holds s.pa.srst (!s.params.srstAssertLevel)) ∧
      (s.pa.blink ≠ noPin → holds s.pa.blink false) ∧
      (∀ p : PinIdx, p ∉ usedPins s.trJtag s.trSwd s.pa →
        t.direction p.toNat = s.direction p.toNat ∧ t.level p.toNat = s.level p.toNat) ∧
      (s.trJtag = true → s.params.trstAssertLevel = false → s.params.srstAssertLevel = false →
        (s.pa.trst ≠ noPin → s.pa.srst ≠ noPin → s.pa.blink ≠ noPin →
          ∀ i : Fin 6, t.bundleBit i = (0x1C : BitVec 6).getLsbD i.val) ∧
        (s.pa.trst = noPin → s.pa.srst = noPin → s.pa.blink = noPin →
          ∀ i : Fin 6, t.bundleBit i = (0x04 : BitVec 6).getLsbD i.val))

/-- ValidationError: data 0 with no transport requested, 1 when the JTAG pins fail, 2 when the SWD
pins fail; the state is unchanged, LIFE stays UNCONFIGURED, no pin is touched; raised by INIT only
(60_exceptions R172). -/
def Obligations.ValidationFailureTouchesNothing : Prop :=
  (∀ s : State, s.life = .unconfigured →
    (s.trJtag = false → s.trSwd = false →
      exec .init s = .next { s with responses := s.responses ++ [0x0200000000] }) ∧
    (s.trJtag = true → canOperateJtag s = false →
      exec .init s = .next { s with responses := s.responses ++ [0x0200000001] }) ∧
    (s.trSwd = true → (s.trJtag = true → canOperateJtag s = true) → canOperateSwd s = false →
      exec .init s = .next { s with responses := s.responses ++ [0x0200000002] })) ∧
  (∀ (i : Instr) (s t : State) (r : RspWord), exec i s = .next t → Answers s t r →
    statusByte r = 0x02 → i = .init)

/-- The JTAG validator: which predicate each signal takes, and that removing any one of the four makes
it false (44_lifecycle R141; `TDO_CHECK` is the spec's own D11, log entry 16). -/
def Obligations.JtagValidatorChecksEachSignal : Prop :=
  ∀ s : State,
    (canOperateJtag s = true ↔
      pinOutCapable s.params s.pa.tck = true ∧ pinOutCapable s.params s.pa.tms = true ∧
      pinValid s.params s.pa.tdi = true ∧
      (s.params.tdoCheck = .valid → pinValid s.params s.pa.tdo = true) ∧
      (s.params.tdoCheck = .outCapable → pinOutCapable s.params s.pa.tdo = true)) ∧
    (∀ x ∈ [Signal.tck, .tms, .tdi, .tdo],
      canOperateJtag { s with pa := s.pa.set x noPin } = false)

/-- The SWD validator: SWCLK and SWDIO both valid, whatever they can drive; removing either makes it
false (44_lifecycle R142). -/
def Obligations.SwdValidatorAsksForTwoValidPins : Prop :=
  ∀ s : State,
    (canOperateSwd s = true ↔
      pinValid s.params s.pa.swclk = true ∧ pinValid s.params s.pa.swdio = true) ∧
    canOperateSwd { s with pa := { s.pa with swclk := noPin } } = false ∧
    canOperateSwd { s with pa := { s.pa with swdio := noPin } } = false

/-- ResourceError, by INIT in its bundle allocation only: data 1 when the output bundle is refused,
2 when the input bundle is; the JTAG pins are already set up and stay so, every bundle is released,
LIFE is SHUTDOWN, and the later phases never run (60_exceptions R174, 44_lifecycle R146, R153). The
state after the failure is the spec's own D16 (log entry 21); the order of the setup events, and TMS's
level standing where it shares TDI's or TCK's pin, are the spec's own D15 (log entry 20). Both
entries are DEDUCED. -/
def Obligations.BundleRefusalEndsInShutdown : Prop :=
  (∀ s : State, s.life = .unconfigured → StrapsValid s → s.trJtag = true →
    (∀ p ∈ [s.pa.tdi, s.pa.tck, s.pa.tms], pinOutCapable s.params p = true) →
    (s.allocOutOK = false ∨ s.allocInOK = false) →
    ∃ t, exec .init s = .next t ∧
      t = { s with
        life := .shutdown
        obAlloc := false
        ibAlloc := false
        oslot := #v[noPin, noPin, noPin, noPin, noPin, noPin]
        islot := noPin
        dir := t.dir
        lvl := t.lvl
        trace := s.trace ++ jtagSetupEvents s.pa
        responses := s.responses ++
          [if s.allocOutOK = false then 0x0400000001 else 0x0400000002] } ∧
      (∀ p : PinIdx, t.direction p.toNat =
        if p ∈ [s.pa.tdi, s.pa.tck, s.pa.tms] then some .output else s.direction p.toNat) ∧
      (∀ p : PinIdx, t.level p.toNat =
        if p = s.pa.tms then true
        else if p = s.pa.tdi ∨ p = s.pa.tck then false
        else s.level p.toNat)) ∧
  (∀ (i : Instr) (s t : State) (r : RspWord), exec i s = .next t → Answers s t r →
    statusByte r = 0x04 →
    i = .init ∧ s.trJtag = true ∧ (s.allocOutOK = false ∨ s.allocInOK = false))

/-- INIT past the validator, whatever the platform grants: it completes exactly when every pin that it
drives before it ends is output-capable, and faults otherwise. With the bundles granted these are all
of DrivenPinsOutCapable; with a bundle refused only TDI, TCK and TMS, which are driven before the
allocation. An undrivable TDI, which the validator lets pass, faults before any bundle is asked for
(44_lifecycle R145, R146, 60_exceptions R187, 70_reset R214). That such an access faults is the spec's
own D38 (93 U6; log entry 9, DEDUCED). -/
def Obligations.InitFaultsExactlyOnUndrivablePins : Prop :=
  ∀ s : State, s.life = .unconfigured → StrapsValid s →
    let jtagPinsDrivable : Prop :=
      s.trJtag = true → ∀ p ∈ [s.pa.tdi, s.pa.tck, s.pa.tms], pinOutCapable s.params p = true
    let completes : Prop := ∃ t, exec .init s = .next t
    let faults : Prop := ∃ f, exec .init s = .fault f
    (BundlesGranted s →
      (completes ↔ DrivenPinsOutCapable s.trJtag s.trSwd s) ∧
      (faults ↔ ¬ DrivenPinsOutCapable s.trJtag s.trSwd s)) ∧
    (¬ BundlesGranted s → (completes ↔ jtagPinsDrivable) ∧ (faults ↔ ¬ jtagPinsDrivable)) ∧
    (s.trJtag = true → pinOutCapable s.params s.pa.tdi = false →
      exec .init s = .fault (.pinNotOutCapable s.pa.tdi))

/-- THE SPEC'S OWN STATUS (92 D30, 93 U5; log entry 11): INIT outside UNCONFIGURED answers
`ERR_UNAVAILABLE`, whatever the straps, and changes nothing. -/
def Obligations.InitRunsOncePerSession : Prop :=
  ∀ s : State, s.life ≠ .unconfigured →
    exec .init s = .next { s with responses := s.responses ++ [0x0500000000] }

/-- QUIT completes in every lifecycle state: bundles released, flags cleared, LIFE SHUTDOWN, no pin
event, and everything else, the directions and latches among it, as it was (44_lifecycle R151). -/
def Obligations.QuitReleasesEverything : Prop :=
  ∀ s : State, exec .quit s = .next { s with
    obAlloc := false
    ibAlloc := false
    oslot := #v[noPin, noPin, noPin, noPin, noPin, noPin]
    islot := noPin
    jtagOn := false
    swdOn := false
    life := .shutdown
    responses := s.responses ++ [0x0000000000] }

/-- The bundles are written by INIT, for a JTAG session only, and cleared by QUIT, and by nothing
else (10_state R23). -/
def Obligations.BundlesChangeOnlyByInitAndQuit : Prop :=
  ∀ (i : Instr) (s t : State), exec i s = .next t →
    (t.obAlloc ≠ s.obAlloc ∨ t.ibAlloc ≠ s.ibAlloc ∨ t.oslot ≠ s.oslot ∨ t.islot ≠ s.islot) →
    (i = .init ∧ s.life = .unconfigured ∧ s.trJtag = true) ∨
    (i = .quit ∧ t.obAlloc = false ∧ t.ibAlloc = false ∧
      (∀ k : Fin 6, t.oslot[k] = noPin) ∧ t.islot = noPin)

/-! ### The access primitives -/

/-- PinSetDir: the direction of that pin and no other, one DIR event, the latches kept; a fault on a
pin the platform cannot so switch (20_memory R41). -/
def Obligations.PinSetDirKeepsTheLatch : Prop :=
  ∀ (p : PinIdx) (d : Drive) (s : State),
    (pinValid s.params p = true → (d = .output → pinOutCapable s.params p = true) →
      ∃ t, pinSetDir p d s = .go () t ∧ t.trace = s.trace ++ [.dir p.toNat d] ∧
        (∀ q, t.direction q = if q = p.toNat then some d else s.direction q) ∧
        (∀ q, t.level q = s.level q) ∧ t = { s with dir := t.dir, trace := t.trace }) ∧
    ((pinValid s.params p = false ∨ d = .output ∧ pinOutCapable s.params p = false) →
      ∃ f, pinSetDir p d s = .stop f)

/-- PinSetLevel: the latch of that pin and no other, one DRV event, whatever the direction, which is
kept (20_memory R42). -/
def Obligations.PinSetLevelWritesTheLatch : Prop :=
  ∀ (p : PinIdx) (b : Bool) (s : State), pinValid s.params p = true →
    ∃ t, pinSetLevel p b s = .go () t ∧ t.trace = s.trace ++ [.drv [(p.toNat, b)]] ∧
      (∀ q, t.level q = if q = p.toNat then b else s.level q) ∧
      t = { s with lvl := t.lvl, trace := t.trace }

/-- The pad of a pin PINSEQ drives shows its latch: from the event that switches the pin to output,
with the latch it had, and after every level write; a level write moves the pad of no other driven
pin; and a sample of a pad PINSEQ does not drive returns the level seen there (10_state R26, 20_memory
R41 to R43; the latch across a switch: the spec's own D24). THE MODEL'S CHOICE: R26 says that a driven
pad shows its latch only when ENV does not fight the drive; that ENV never does is log entry 28 (DESIGN
CHOICE, unsafe; 93 U12: contention is not modelled). -/
def Obligations.PadShowsTheLatchWhileDriven : Prop :=
  ∀ (p : PinIdx) (b : Bool) (s : State),
    (s.direction p.toNat = some .output → s.pad p.toNat = s.level p.toNat) ∧
    (pinOutCapable s.params p = true →
      ∃ t, pinSetDir p .output s = .go () t ∧ t.pad p.toNat = s.level p.toNat) ∧
    (pinValid s.params p = true →
      ∃ t, pinSetLevel p b s = .go () t ∧
        (s.direction p.toNat = some .output → t.pad p.toNat = b) ∧
        ∀ q, q ≠ p.toNat → s.direction q = some .output → t.pad q = s.pad q) ∧
    (s.direction p.toNat ≠ some .output → (answerSample s p.toNat).1 = s.pad p.toNat)

/-- BundleWrite: one atomic event for the selected present slots and no other (20_memory R44). -/
def Obligations.BundleWriteUpdatesSelectedSlotsAtOnce : Prop :=
  ∀ (mask val : BitVec 6) (s : State), s.obAlloc = true →
    ∃ t upd, bundleWrite mask val s = .go () t ∧ t.trace = s.trace ++ [.drv upd] ∧
      OneBundleWrite s t
        (((List.finRange 6).filter fun i => mask.getLsbD i.val).map
          fun i => (i, val.getLsbD i.val)) upd ∧
      t = { s with lvl := t.lvl, trace := t.trace }

/-! ### JTAG primitives -/

/-- JTAG_WRITE completes in a JTAG session: TCK, TDI and TMS (slots 0, 1, 2) take their bits in ONE
event, then the delay, then the answer; no other latch, direction or register changes
(41_jtag R101, R106, 20_memory R44). THE MODEL'S CHOICE: a pin that the write gives both bits takes one
free value, shown once in the event (log entry 8, DESIGN CHOICE; 93 U7). -/
def Obligations.JtagWriteMovesThreeLinesAtOnce : Prop :=
  ∀ (s : State) (tck tms tdi : Bool), s.life = .active → s.jtagOn = true → s.obAlloc = true →
    ∃ t upd, exec (.jtagWrite tck tms tdi) s = .next t ∧
      t.trace = s.trace ++ [.drv upd, .dly s.delayCnt] ∧
      OneBundleWrite s t [(0, tck), (1, tdi), (2, tms)] upd ∧
      t = { s with
        lvl := t.lvl, trace := t.trace, responses := s.responses ++ [0x0000000000] }

/-- JTAG_READ completes in a JTAG session: one sample of the input slot, answered in bit 0 with the
other 31 bits 0 (the spec's own D45); nothing of PINSEQ changes and no delay follows (41_jtag
R102). THE MODEL'S CHOICE: where TDO's pin is driven, the sample is a free value, as D25 has it for any
level read of an output, and not the latch (log entry 6, DESIGN CHOICE). -/
def Obligations.JtagReadSamplesTheInputSlot : Prop :=
  ∀ s : State, s.life = .active → s.jtagOn = true → s.ibAlloc = true →
    ∃ b e, SampleGives s s.islot.toNat b e ∧
      exec .jtagRead s = .next { s with
        env := e
        trace := s.trace ++ [.smp s.islot.toNat b]
        responses := s.responses ++ [if b then 0x0000000001 else 0x0000000000] }

/-- JTAG_RESET completes in a JTAG session: each configured line is driven, TRST before SRST, each
in its own event, to its assert level when asserted and to the other when not; an unconfigured line
is a no-op; every other latch is kept (41_jtag R103). -/
def Obligations.JtagResetDrivesEachConfiguredLine : Prop :=
  ∀ (s : State) (trst srst : Bool), s.life = .active → s.jtagOn = true → s.obAlloc = true →
    let l3 := if trst then s.params.trstAssertLevel else !s.params.trstAssertLevel
    let l4 := if srst then s.params.srstAssertLevel else !s.params.srstAssertLevel
    ∃ t, exec (.jtagReset trst srst) s = .next t ∧
      t.trace = s.trace ++
        (if s.pa.trst ≠ noPin then [oneSlotEvent s 3 l3] else []) ++
        (if s.pa.srst ≠ noPin then [oneSlotEvent s 4 l4] else []) ∧
      (∀ p, t.level p =
        let afterTrst := if s.pa.trst ≠ noPin then afterSlot s 3 l3 p (s.level p) else s.level p
        if s.pa.srst ≠ noPin then afterSlot s 4 l4 p afterTrst else afterTrst) ∧
      t = { s with
        lvl := t.lvl, trace := t.trace, responses := s.responses ++ [0x0000000000] }

/-- JTAG_BLINK completes in a JTAG session with an assigned indicator: slot 5 takes the bit, in one
event, and the other latches are kept (41_jtag R104). -/
def Obligations.JtagBlinkDrivesTheIndicator : Prop :=
  ∀ (s : State) (on : Bool), s.life = .active → s.jtagOn = true → s.pa.blink ≠ noPin →
    s.obAlloc = true →
    ∃ t, exec (.jtagBlink on) s = .next t ∧ t.trace = s.trace ++ [oneSlotEvent s 5 on] ∧
      (∀ p, t.level p = afterSlot s 5 on p (s.level p)) ∧
      t = { s with
        lvl := t.lvl, trace := t.trace, responses := s.responses ++ [0x0000000000] }

/-- THE SPEC'S OWN STATUS (92 D20, D21, 93 U2; log entry 11): a JTAG primitive outside a JTAG
session, and JTAG_BLINK without an indicator, answer `ERR_UNAVAILABLE` with no event and no change. -/
def Obligations.JtagPrimitivesNeedTheirPath : Prop :=
  ∀ s : State,
    let unavailable : State := { s with responses := s.responses ++ [0x0500000000] }
    (¬ (s.life = .active ∧ s.jtagOn = true) →
      (∀ tck tms tdi, exec (.jtagWrite tck tms tdi) s = .next unavailable) ∧
      exec .jtagRead s = .next unavailable ∧
      (∀ trst srst, exec (.jtagReset trst srst) s = .next unavailable)) ∧
    (¬ (s.life = .active ∧ s.jtagOn = true ∧ s.pa.blink ≠ noPin) →
      ∀ on, exec (.jtagBlink on) s = .next unavailable)

/-! ### SWD primitives -/

/-- SWD_DRIVE completes in an SWD session: SWDIO is switched, one DIR event, every latch kept, no
other direction changed (42_swd R116). -/
def Obligations.SwdDriveSwitchesSwdio : Prop :=
  ∀ (s : State) (isOutput : Bool), s.life = .active → s.swdOn = true →
    pinValid s.params s.pa.swdio = true →
    (isOutput = true → pinOutCapable s.params s.pa.swdio = true) →
    let d : Drive := if isOutput then .output else .input
    ∃ t, exec (.swdDrive isOutput) s = .next t ∧
      t.trace = s.trace ++ [.dir s.pa.swdio.toNat d] ∧
      (∀ p, t.direction p = if p = s.pa.swdio.toNat then some d else s.direction p) ∧
      (∀ p, t.level p = s.level p) ∧
      t = { s with
        dir := t.dir, trace := t.trace, responses := s.responses ++ [0x0000000000] }

/-- SWD_WRITE completes in an SWD session: two separate level writes in one of the two orders, then
the delay, then the answer; when both signals are on one pin the later write wins; the directions
are kept (42_swd R117). Which order is a free value unless the parameter fixes it (log entry 7). -/
def Obligations.SwdWriteSetsBothLatches : Prop :=
  ∀ (s : State) (swclk swdio : Bool), s.life = .active → s.swdOn = true →
    pinValid s.params s.pa.swclk = true → pinValid s.params s.pa.swdio = true →
    ∃ t clockFirst, exec (.swdWrite swclk swdio) s = .next t ∧
      (s.params.swdWriteOrder = .clockFirst → clockFirst = true) ∧
      (s.params.swdWriteOrder = .dataFirst → clockFirst = false) ∧
      (s.params.swdWriteOrder = .either →
        clockFirst = Config.swdClockFirst s.epoch s.trace) ∧
      (let clk : Event := .drv [(s.pa.swclk.toNat, swclk)]
       let dio : Event := .drv [(s.pa.swdio.toNat, swdio)]
       t.trace = s.trace ++ (if clockFirst then [clk, dio] else [dio, clk]) ++
        [.dly s.delayCnt]) ∧
      (s.pa.swclk ≠ s.pa.swdio →
        t.level s.pa.swclk.toNat = swclk ∧ t.level s.pa.swdio.toNat = swdio) ∧
      (s.pa.swclk = s.pa.swdio →
        t.level s.pa.swclk.toNat = if clockFirst then swdio else swclk) ∧
      (∀ p, p ≠ s.pa.swclk.toNat → p ≠ s.pa.swdio.toNat → t.level p = s.level p) ∧
      t = { s with
        lvl := t.lvl, trace := t.trace, responses := s.responses ++ [0x0000000000] }

/-- SWD_READ completes in an SWD session: one sample of SWDIO, answered in bit 0 with the other 31
bits 0 (the spec's own D45); nothing of PINSEQ changes (42_swd R118). Where SWDIO is an output the bit
is a free value (the spec's own D25, 93 U3; log entry 6). -/
def Obligations.SwdReadSamplesSwdio : Prop :=
  ∀ s : State, s.life = .active → s.swdOn = true → pinValid s.params s.pa.swdio = true →
    ∃ b e, SampleGives s s.pa.swdio.toNat b e ∧
      exec .swdRead s = .next { s with
        env := e
        trace := s.trace ++ [.smp s.pa.swdio.toNat b]
        responses := s.responses ++ [if b then 0x0000000001 else 0x0000000000] }

/-- SWD_BLINK completes in an SWD session with an assigned indicator: its latch takes the bit, in
one event (42_swd R119). -/
def Obligations.SwdBlinkDrivesTheIndicator : Prop :=
  ∀ (s : State) (on : Bool), s.life = .active → s.swdOn = true → s.pa.blink ≠ noPin →
    pinValid s.params s.pa.blink = true →
    ∃ t, exec (.swdBlink on) s = .next t ∧
      t.trace = s.trace ++ [.drv [(s.pa.blink.toNat, on)]] ∧
      (∀ p, t.level p = if p = s.pa.blink.toNat then on else s.level p) ∧
      t = { s with
        lvl := t.lvl, trace := t.trace, responses := s.responses ++ [0x0000000000] }

/-- THE SPEC'S OWN STATUS (92 D20, D21, 93 U2; log entry 11): an SWD primitive outside an SWD
session, and SWD_BLINK without an indicator, answer `ERR_UNAVAILABLE` with no event and no change. -/
def Obligations.SwdPrimitivesNeedTheirPath : Prop :=
  ∀ s : State,
    let unavailable : State := { s with responses := s.responses ++ [0x0500000000] }
    (¬ (s.life = .active ∧ s.swdOn = true) →
      (∀ isOutput, exec (.swdDrive isOutput) s = .next unavailable) ∧
      (∀ swclk swdio, exec (.swdWrite swclk swdio) s = .next unavailable) ∧
      exec .swdRead s = .next unavailable) ∧
    (¬ (s.life = .active ∧ s.swdOn = true ∧ s.pa.blink ≠ noPin) →
      ∀ on, exec (.swdBlink on) s = .next unavailable)

/-! ### Whole-machine rules -/

/-- A direction is written by INIT and by SWD_DRIVE only, and by SWD_DRIVE that of SWDIO only: no
other command infers or changes it; a successful INIT for SWD leaves SWDIO an output (10_state R24,
42_swd R120). -/
def Obligations.DirectionsChangeOnlyByInitAndSwdDrive : Prop :=
  (∀ (i : Instr) (s t : State) (p : Nat), exec i s = .next t → t.direction p ≠ s.direction p →
    (i = .init ∧ s.life = .unconfigured) ∨
    ((∃ isOutput, i = .swdDrive isOutput) ∧ p = s.pa.swdio.toNat ∧ s.swdOn = true)) ∧
  (∀ s t : State, s.life = .unconfigured → exec .init s = .next t → t.life = .active →
    t.swdOn = true → t.direction t.pa.swdio.toNat = some .output)

/-- A latch is written by INIT, by the three writing JTAG primitives through their slots, and by the
two writing SWD primitives on their pins, and by nothing else (10_state R25, R32). -/
def Obligations.LatchesChangeOnlyByTheirWriters : Prop :=
  ∀ (i : Instr) (s t : State) (p : Nat), exec i s = .next t → t.level p ≠ s.level p →
    (i = .init ∧ s.life = .unconfigured) ∨
    ((∃ a b c, i = .jtagWrite a b c) ∧ ∃ k : Fin 6, k.val < 3 ∧ p = s.oslot[k].toNat) ∨
    ((∃ a b, i = .jtagReset a b) ∧ (p = s.oslot[3].toNat ∨ p = s.oslot[4].toNat)) ∨
    ((∃ on, i = .jtagBlink on) ∧ p = s.oslot[5].toNat) ∨
    ((∃ a b, i = .swdWrite a b) ∧ (p = s.pa.swclk.toNat ∨ p = s.pa.swdio.toNat)) ∨
    ((∃ on, i = .swdBlink on) ∧ p = s.pa.blink.toNat)

/-- The write columns of R32 for the registers: LIFE and the flags by INIT and QUIT, KHZ by
SPEED_SET, DELAY_CNT by nothing; and no command writes an input, a port, or a parameter; ENV's
answers are used up by the two reads only. -/
def Obligations.RegistersChangeOnlyByTheirWriters : Prop :=
  ∀ (i : Instr) (s t : State), exec i s = .next t →
    (t.life ≠ s.life ∨ t.jtagOn ≠ s.jtagOn ∨ t.swdOn ≠ s.swdOn → i = .init ∨ i = .quit) ∧
    (t.khz ≠ s.khz → ∃ k, i = .speedSet k) ∧
    (t.env ≠ s.env → i = .jtagRead ∨ i = .swdRead) ∧
    t.delayCnt = s.delayCnt ∧ t.trJtag = s.trJtag ∧ t.trSwd = s.trSwd ∧
    t.allocOutOK = s.allocOutOK ∧ t.allocInOK = s.allocInOK ∧ t.cmd = s.cmd ∧
    t.resetIn = s.resetIn ∧ t.params = s.params ∧ t.epoch = s.epoch

/-- Every command that completes answers exactly one word, with a status R63 lists for it, and only
adds events to the trace (30_encoding R62, R63, 20_memory R52). -/
def Obligations.EveryCommandAnswersOnce : Prop :=
  ∀ (i : Instr) (s t : State), exec i s = .next t →
    (∃ r, Answers s t r ∧ statusByte r ∈ possibleStatuses i) ∧ s.trace <+: t.trace

/-- An error other than ResourceError leaves no trace of the command but its answer
(60_exceptions R179). -/
def Obligations.ErrorsLeaveTheStateUnchanged : Prop :=
  ∀ (i : Instr) (s t : State) (r : RspWord), exec i s = .next t → Answers s t r →
    statusByte r ≠ 0x00 → statusByte r ≠ 0x04 → t = { s with responses := s.responses ++ [r] }

/-- After reset PINSEQ drives no pin, so every pad is ENV's; no pin event occurs at reset, and none
before INIT: no other command accepted in UNCONFIGURED touches a pin (70_reset R201). -/
def Obligations.NoPinIsTouchedBeforeInit : Prop :=
  (∀ p, State.reset.direction p = none ∧ State.reset.pad p = State.reset.padIn p) ∧
  State.reset.trace = [] ∧
  (∀ s : State, s.resetIn = true →
    ∃ t, step s = .next t ∧ t.trace = [] ∧ ∀ p, t.direction p = none ∧ t.pad p = t.padIn p) ∧
  (∀ (i : Instr) (s t : State), s.life = .unconfigured → i ≠ .init → exec i s = .next t →
    t.trace = s.trace ∧ t.dir = s.dir ∧ t.lvl = s.lvl)

/-- The busy-wait: one DLY event of DELAY_CNT iterations at the end of a JTAG_WRITE and an SWD_WRITE
that answer OK, after their pin writes, and no DLY event anywhere else; the count never changes
(43_speed R132). -/
def Obligations.DelayFollowsTheTwoWritesOnly : Prop :=
  ∀ (i : Instr) (s t : State), exec i s = .next t →
    t.delayCnt = s.delayCnt ∧
    ∃ evs, (∀ n, Event.dly n ∉ evs) ∧
      (t.trace = s.trace ++ evs ∨
        (t.trace = s.trace ++ evs ++ [.dly s.delayCnt] ∧ evs ≠ [] ∧
          ((∃ a b c, i = .jtagWrite a b c) ∨ ∃ a b, i = .swdWrite a b))) ∧
      ((∃ a b c, i = .jtagWrite a b c) ∨ (∃ a b, i = .swdWrite a b) →
        Answers s t 0x0000000000 → t.trace = s.trace ++ evs ++ [.dly s.delayCnt])

/-! ### Two transports in one session -/

/-- Why HOST uses one family of primitives while both paths are installed, and what it gains
(70_reset R213). First, each family's writes move the other's lines where the pins coincide, and only
there: an SWD_WRITE on a pin that is also bundle slot `i` moves that slot (slot 0 is TCK), and a
JTAG_WRITE through a slot on SWCLK's or SWDIO's pin moves that latch. Second, as long as HOST keeps to
one family and does not reset, whatever else it, the platform and ENV do, either no direction has
changed and no latch but those of the bundle's slots, or no direction but SWDIO's and no latch but
those of SWCLK, SWDIO and the indicator. That one INIT may install both paths is the spec's own D9 (log
entry 12, DEDUCED). -/
def Obligations.OneTransportKeepsTheLinesApart : Prop :=
  (∀ s : State, s.life = .active → BothPathsInstalled s → s.obAlloc = true →
    (∀ swclk swdio, pinValid s.params s.pa.swclk = true → pinValid s.params s.pa.swdio = true →
      s.pa.swclk ≠ s.pa.swdio →
      ∃ t, exec (.swdWrite swclk swdio) s = .next t ∧ ∀ i : Fin 6,
        (s.oslot[i] = s.pa.swclk → t.bundleBit i = swclk) ∧
        (s.oslot[i] = s.pa.swdio → t.bundleBit i = swdio) ∧
        (s.oslot[i] ≠ s.pa.swclk → s.oslot[i] ≠ s.pa.swdio → t.bundleBit i = s.bundleBit i)) ∧
    (∀ tck tms tdi, [s.oslot[0], s.oslot[1], s.oslot[2]].Nodup →
      ∃ t, exec (.jtagWrite tck tms tdi) s = .next t ∧
        ∀ p ∈ [s.pa.swclk, s.pa.swdio], p ≠ noPin →
          (s.oslot[0] = p → t.level p.toNat = tck) ∧
          (s.oslot[1] = p → t.level p.toNat = tdi) ∧
          (s.oslot[2] = p → t.level p.toNat = tms) ∧
          (p ∉ [s.oslot[0], s.oslot[1], s.oslot[2]] → t.level p.toNat = s.level p.toNat))) ∧
  (∀ (acts : List HostAction) (s t : State), s.life = .active → BothPathsInstalled s →
    s.resetIn = false → .assertReset ∉ acts → OneTransportPerSession acts s →
    session acts s = .next t →
    (t.dir = s.dir ∧
      ∀ p, (∀ i : Fin 6, s.oslot[i] ≠ noPin → s.oslot[i].toNat ≠ p) → t.level p = s.level p) ∨
    ((∀ p, p ≠ s.pa.swdio.toNat → t.direction p = s.direction p) ∧
      ∀ p, (∀ x ∈ [Signal.swclk, .swdio, .blink], (s.pa.get x).toNat ≠ p) → t.level p = s.level p))

/-! ### The invariant -/

/-- The invariant holds right after reset. -/
def Obligations.ResetMeetsTheInvariant : Prop := SessionInv State.reset

/-- Every step keeps the invariant, from every state that meets it: the canonical form of the pin
maps, the ties between flags, bundles, slots and registers, KHZ never 0, and which pins are inputs
and outputs during a session. -/
def Obligations.EveryStepKeepsTheInvariant : Prop :=
  ∀ s t : State, SessionInv s → step s = .next t → SessionInv t

/-- Whatever HOST, the platform and ENV do between the steps, every state a session reaches from a
state that meets the invariant meets it. -/
def Obligations.SessionsKeepTheInvariant : Prop :=
  ∀ (acts : List HostAction) (s t : State), SessionInv s → session acts s = .next t → SessionInv t

/-- Once validated, primitives never fail: in a state that meets the invariant the only step that can
stop the machine is an INIT whose driven pins are not all output-capable; no step is refused
(41_jtag R105, 42_swd R115, 70_reset R214). That such an access faults is the spec's own D38 (93 U6;
log entry 9, DEDUCED). -/
def Obligations.OnlyInitOnUndrivablePinsFaults : Prop :=
  ∀ s : State, SessionInv s →
    (∀ f, step s = .fault f →
      (∃ w, s.cmd = some w ∧ decode w = .ok .init) ∧ s.life = .unconfigured ∧
      ¬ DrivenPinsOutCapable s.trJtag s.trSwd s) ∧
    (∀ r, step s ≠ .refused r)
end

