-- ==== Sys2Proof/Laws/PinMap.lean ====
section
/-! SUPPORT. The laws of per-pin maps: a read after a write, the frame of a write, and that every
operation keeps the canonical form. -/

namespace Sys2Proof.Machine

variable {α : Type}

@[simp] theorem pinMap_get_nil (p : Nat) : PinMap.get ([] : PinMap α) p = none := rfl

theorem pinMap_get_set (m : PinMap α) (p q : Nat) (a : α) :
    PinMap.get (PinMap.set m p a) q = if q = p then some a else PinMap.get m q := by
  induction m with
  | nil => simp [PinMap.set, PinMap.get]
  | cons e m ih =>
    obtain ⟨r, b⟩ := e
    simp only [PinMap.set]
    split
    · simp [PinMap.get]
    · split
      · rename_i h
        subst h
        by_cases hq : q = p <;> simp [PinMap.get, hq]
      · rename_i h1 h2
        simp only [PinMap.get, ih]
        by_cases hq : q = r
        · subst hq
          simp [Ne.symm h2]
        · simp [hq]

@[simp] theorem pinMap_get_set_self (m : PinMap α) (p : Nat) (a : α) :
    PinMap.get (PinMap.set m p a) p = some a := by
  simp [pinMap_get_set]

theorem pinMap_get_set_other (m : PinMap α) (p q : Nat) (a : α) (h : q ≠ p) :
    PinMap.get (PinMap.set m p a) q = PinMap.get m q := by
  simp [pinMap_get_set, h]

/-- A write lists the written pin and what was listed. -/
theorem pinMap_mem_set (m : PinMap α) (p : Nat) (a : α) (e : Nat × α)
    (h : e ∈ PinMap.set m p a) : e = (p, a) ∨ e ∈ m := by
  induction m with
  | nil => simpa [PinMap.set] using h
  | cons x m ih =>
    obtain ⟨r, b⟩ := x
    simp only [PinMap.set] at h
    split at h
    · simpa using h
    · split at h
      · rcases List.mem_cons.mp h with h | h
        · exact .inl h
        · exact .inr (List.mem_cons_of_mem _ h)
      · rcases List.mem_cons.mp h with h | h
        · exact .inr (h ▸ List.mem_cons_self ..)
        · rcases ih h with h | h
          · exact .inl h
          · exact .inr (List.mem_cons_of_mem _ h)

theorem pinMap_wf_set (m : PinMap α) (p : Nat) (a : α) (h : PinMap.WF m) :
    PinMap.WF (PinMap.set m p a) := by
  induction m with
  | nil => simp [PinMap.set]
  | cons x m ih =>
    obtain ⟨r, b⟩ := x
    obtain ⟨hr, hm⟩ := List.pairwise_cons.mp h
    simp only [PinMap.set]
    split
    · rename_i hlt
      refine List.pairwise_cons.mpr ⟨fun e he => ?_, h⟩
      rcases List.mem_cons.mp he with he | he
      · exact he ▸ hlt
      · exact Nat.lt_trans hlt (hr e he)
    · split
      · rename_i heq
        subst heq
        exact List.pairwise_cons.mpr ⟨hr, hm⟩
      · rename_i h1 h2
        refine List.pairwise_cons.mpr ⟨fun e he => ?_, ih hm⟩
        rcases pinMap_mem_set m p a e he with he | he
        · subst he
          simp only
          omega
        · exact hr e he

/-- In canonical form a pin is listed with the value a read gives. -/
theorem pinMap_mem_iff_get (m : PinMap α) (h : PinMap.WF m) (p : Nat) (a : α) :
    (p, a) ∈ m ↔ PinMap.get m p = some a := by
  induction m with
  | nil => simp
  | cons x m ih =>
    obtain ⟨r, b⟩ := x
    obtain ⟨hr, hm⟩ := List.pairwise_cons.mp h
    simp only [PinMap.get, List.mem_cons, Prod.mk.injEq]
    split
    · rename_i hp
      subst hp
      constructor
      · rintro (⟨-, rfl⟩ | hmem)
        · rfl
        · exact absurd (hr _ hmem) (by simp)
      · rintro h
        exact .inl ⟨rfl, (Option.some.inj h).symm⟩
    · rename_i hp
      simp [hp, ih hm]

theorem pinMap_wf_setAll (updates : List (Nat × α)) (m : PinMap α) (h : PinMap.WF m) :
    PinMap.WF (PinMap.setAll m updates) := by
  induction updates generalizing m with
  | nil => exact h
  | cons e updates ih => exact ih _ (pinMap_wf_set m e.1 e.2 h)

theorem pinMap_mem_setAll (updates : List (Nat × α)) (m : PinMap α) (e : Nat × α)
    (h : e ∈ PinMap.setAll m updates) : e ∈ updates ∨ e ∈ m := by
  induction updates generalizing m with
  | nil => exact .inr h
  | cons u updates ih =>
    rcases ih _ h with h | h
    · exact .inl (List.mem_cons_of_mem _ h)
    · rcases pinMap_mem_set m u.1 u.2 e h with h | h
      · exact .inl (h ▸ List.mem_cons_self ..)
      · exact .inr h

/-- A pin no update names keeps its value. -/
theorem pinMap_get_setAll_other (updates : List (Nat × α)) (m : PinMap α) (p : Nat)
    (h : ∀ e ∈ updates, e.1 ≠ p) : PinMap.get (PinMap.setAll m updates) p = PinMap.get m p := by
  induction updates generalizing m with
  | nil => rfl
  | cons u updates ih =>
    have hu : u.1 ≠ p := h u (List.mem_cons_self ..)
    have hrest := ih (PinMap.set m u.1 u.2) fun e he => h e (List.mem_cons_of_mem _ he)
    exact hrest.trans (pinMap_get_set_other m u.1 p u.2 (Ne.symm hu))

/-- A pin that the updates name with one value only gets that value. -/
theorem pinMap_get_setAll_mem (updates : List (Nat × α)) (m : PinMap α) (p : Nat) (a : α)
    (hmem : (p, a) ∈ updates) (hone : ∀ e ∈ updates, e.1 = p → e.2 = a) :
    PinMap.get (PinMap.setAll m updates) p = some a := by
  induction updates generalizing m with
  | nil => simp at hmem
  | cons u updates ih =>
    by_cases hlater : ∃ e ∈ updates, e.1 = p
    · obtain ⟨e, he, hep⟩ := hlater
      have hea := hone e (List.mem_cons_of_mem _ he) hep
      have : (p, a) ∈ updates := by
        rw [← hep, ← hea]
        exact he
      exact ih _ this fun e he => hone e (List.mem_cons_of_mem _ he)
    · have hu : u = (p, a) := by
        rcases List.mem_cons.mp hmem with h | h
        · exact h.symm
        · exact absurd ⟨_, h, rfl⟩ hlater
      have hno : ∀ e ∈ updates, e.1 ≠ p := fun e he hep => hlater ⟨e, he, hep⟩
      subst hu
      exact (pinMap_get_setAll_other updates _ p hno).trans (pinMap_get_set_self m p a)

end Sys2Proof.Machine
end

