-- ==== Sys2Proof/Laws/State.lean ====
section
/-! SUPPORT. What each named update of State does to each field, by rfl, so that no later proof
unfolds a record update. -/

namespace Sys2Proof.Machine

/-! ### log -/

@[simp] theorem log_pa (e : Event) (s : State) :
    (log e s).pa = s.pa := rfl
@[simp] theorem log_life (e : Event) (s : State) :
    (log e s).life = s.life := rfl
@[simp] theorem log_jtagOn (e : Event) (s : State) :
    (log e s).jtagOn = s.jtagOn := rfl
@[simp] theorem log_swdOn (e : Event) (s : State) :
    (log e s).swdOn = s.swdOn := rfl
@[simp] theorem log_obAlloc (e : Event) (s : State) :
    (log e s).obAlloc = s.obAlloc := rfl
@[simp] theorem log_oslot (e : Event) (s : State) :
    (log e s).oslot = s.oslot := rfl
@[simp] theorem log_ibAlloc (e : Event) (s : State) :
    (log e s).ibAlloc = s.ibAlloc := rfl
@[simp] theorem log_islot (e : Event) (s : State) :
    (log e s).islot = s.islot := rfl
@[simp] theorem log_dir (e : Event) (s : State) :
    (log e s).dir = s.dir := rfl
@[simp] theorem log_lvl (e : Event) (s : State) :
    (log e s).lvl = s.lvl := rfl
@[simp] theorem log_khz (e : Event) (s : State) :
    (log e s).khz = s.khz := rfl
@[simp] theorem log_delayCnt (e : Event) (s : State) :
    (log e s).delayCnt = s.delayCnt := rfl
@[simp] theorem log_trace (e : Event) (s : State) :
    (log e s).trace = s.trace ++ [e] := rfl
@[simp] theorem log_responses (e : Event) (s : State) :
    (log e s).responses = s.responses := rfl
@[simp] theorem log_cmd (e : Event) (s : State) :
    (log e s).cmd = s.cmd := rfl
@[simp] theorem log_resetIn (e : Event) (s : State) :
    (log e s).resetIn = s.resetIn := rfl
@[simp] theorem log_trJtag (e : Event) (s : State) :
    (log e s).trJtag = s.trJtag := rfl
@[simp] theorem log_trSwd (e : Event) (s : State) :
    (log e s).trSwd = s.trSwd := rfl
@[simp] theorem log_allocOutOK (e : Event) (s : State) :
    (log e s).allocOutOK = s.allocOutOK := rfl
@[simp] theorem log_allocInOK (e : Event) (s : State) :
    (log e s).allocInOK = s.allocInOK := rfl
@[simp] theorem log_env (e : Event) (s : State) :
    (log e s).env = s.env := rfl
@[simp] theorem log_params (e : Event) (s : State) :
    (log e s).params = s.params := rfl
@[simp] theorem log_epoch (e : Event) (s : State) :
    (log e s).epoch = s.epoch := rfl

/-! ### respond -/

@[simp] theorem respond_pa (st : Status) (d : BitVec 32) (s : State) :
    (respond st d s).pa = s.pa := rfl
@[simp] theorem respond_life (st : Status) (d : BitVec 32) (s : State) :
    (respond st d s).life = s.life := rfl
@[simp] theorem respond_jtagOn (st : Status) (d : BitVec 32) (s : State) :
    (respond st d s).jtagOn = s.jtagOn := rfl
@[simp] theorem respond_swdOn (st : Status) (d : BitVec 32) (s : State) :
    (respond st d s).swdOn = s.swdOn := rfl
@[simp] theorem respond_obAlloc (st : Status) (d : BitVec 32) (s : State) :
    (respond st d s).obAlloc = s.obAlloc := rfl
@[simp] theorem respond_oslot (st : Status) (d : BitVec 32) (s : State) :
    (respond st d s).oslot = s.oslot := rfl
@[simp] theorem respond_ibAlloc (st : Status) (d : BitVec 32) (s : State) :
    (respond st d s).ibAlloc = s.ibAlloc := rfl
@[simp] theorem respond_islot (st : Status) (d : BitVec 32) (s : State) :
    (respond st d s).islot = s.islot := rfl
@[simp] theorem respond_dir (st : Status) (d : BitVec 32) (s : State) :
    (respond st d s).dir = s.dir := rfl
@[simp] theorem respond_lvl (st : Status) (d : BitVec 32) (s : State) :
    (respond st d s).lvl = s.lvl := rfl
@[simp] theorem respond_khz (st : Status) (d : BitVec 32) (s : State) :
    (respond st d s).khz = s.khz := rfl
@[simp] theorem respond_delayCnt (st : Status) (d : BitVec 32) (s : State) :
    (respond st d s).delayCnt = s.delayCnt := rfl
@[simp] theorem respond_trace (st : Status) (d : BitVec 32) (s : State) :
    (respond st d s).trace = s.trace := rfl
@[simp] theorem respond_responses (st : Status) (d : BitVec 32) (s : State) :
    (respond st d s).responses = s.responses ++ [responseWord st d] := rfl
@[simp] theorem respond_cmd (st : Status) (d : BitVec 32) (s : State) :
    (respond st d s).cmd = s.cmd := rfl
@[simp] theorem respond_resetIn (st : Status) (d : BitVec 32) (s : State) :
    (respond st d s).resetIn = s.resetIn := rfl
@[simp] theorem respond_trJtag (st : Status) (d : BitVec 32) (s : State) :
    (respond st d s).trJtag = s.trJtag := rfl
@[simp] theorem respond_trSwd (st : Status) (d : BitVec 32) (s : State) :
    (respond st d s).trSwd = s.trSwd := rfl
@[simp] theorem respond_allocOutOK (st : Status) (d : BitVec 32) (s : State) :
    (respond st d s).allocOutOK = s.allocOutOK := rfl
@[simp] theorem respond_allocInOK (st : Status) (d : BitVec 32) (s : State) :
    (respond st d s).allocInOK = s.allocInOK := rfl
@[simp] theorem respond_env (st : Status) (d : BitVec 32) (s : State) :
    (respond st d s).env = s.env := rfl
@[simp] theorem respond_params (st : Status) (d : BitVec 32) (s : State) :
    (respond st d s).params = s.params := rfl
@[simp] theorem respond_epoch (st : Status) (d : BitVec 32) (s : State) :
    (respond st d s).epoch = s.epoch := rfl

/-! ### applyDelay -/

@[simp] theorem applyDelay_pa (s : State) :
    (applyDelay s).pa = s.pa := rfl
@[simp] theorem applyDelay_life (s : State) :
    (applyDelay s).life = s.life := rfl
@[simp] theorem applyDelay_jtagOn (s : State) :
    (applyDelay s).jtagOn = s.jtagOn := rfl
@[simp] theorem applyDelay_swdOn (s : State) :
    (applyDelay s).swdOn = s.swdOn := rfl
@[simp] theorem applyDelay_obAlloc (s : State) :
    (applyDelay s).obAlloc = s.obAlloc := rfl
@[simp] theorem applyDelay_oslot (s : State) :
    (applyDelay s).oslot = s.oslot := rfl
@[simp] theorem applyDelay_ibAlloc (s : State) :
    (applyDelay s).ibAlloc = s.ibAlloc := rfl
@[simp] theorem applyDelay_islot (s : State) :
    (applyDelay s).islot = s.islot := rfl
@[simp] theorem applyDelay_dir (s : State) :
    (applyDelay s).dir = s.dir := rfl
@[simp] theorem applyDelay_lvl (s : State) :
    (applyDelay s).lvl = s.lvl := rfl
@[simp] theorem applyDelay_khz (s : State) :
    (applyDelay s).khz = s.khz := rfl
@[simp] theorem applyDelay_delayCnt (s : State) :
    (applyDelay s).delayCnt = s.delayCnt := rfl
@[simp] theorem applyDelay_trace (s : State) :
    (applyDelay s).trace = s.trace ++ [.dly s.delayCnt] := rfl
@[simp] theorem applyDelay_responses (s : State) :
    (applyDelay s).responses = s.responses := rfl
@[simp] theorem applyDelay_cmd (s : State) :
    (applyDelay s).cmd = s.cmd := rfl
@[simp] theorem applyDelay_resetIn (s : State) :
    (applyDelay s).resetIn = s.resetIn := rfl
@[simp] theorem applyDelay_trJtag (s : State) :
    (applyDelay s).trJtag = s.trJtag := rfl
@[simp] theorem applyDelay_trSwd (s : State) :
    (applyDelay s).trSwd = s.trSwd := rfl
@[simp] theorem applyDelay_allocOutOK (s : State) :
    (applyDelay s).allocOutOK = s.allocOutOK := rfl
@[simp] theorem applyDelay_allocInOK (s : State) :
    (applyDelay s).allocInOK = s.allocInOK := rfl
@[simp] theorem applyDelay_env (s : State) :
    (applyDelay s).env = s.env := rfl
@[simp] theorem applyDelay_params (s : State) :
    (applyDelay s).params = s.params := rfl
@[simp] theorem applyDelay_epoch (s : State) :
    (applyDelay s).epoch = s.epoch := rfl

/-! ### releaseBundles -/

@[simp] theorem releaseBundles_pa (s : State) :
    (releaseBundles s).pa = s.pa := rfl
@[simp] theorem releaseBundles_life (s : State) :
    (releaseBundles s).life = s.life := rfl
@[simp] theorem releaseBundles_jtagOn (s : State) :
    (releaseBundles s).jtagOn = s.jtagOn := rfl
@[simp] theorem releaseBundles_swdOn (s : State) :
    (releaseBundles s).swdOn = s.swdOn := rfl
@[simp] theorem releaseBundles_obAlloc (s : State) :
    (releaseBundles s).obAlloc = false := rfl
@[simp] theorem releaseBundles_oslot (s : State) :
    (releaseBundles s).oslot = #v[noPin, noPin, noPin, noPin, noPin, noPin] := rfl
@[simp] theorem releaseBundles_ibAlloc (s : State) :
    (releaseBundles s).ibAlloc = false := rfl
@[simp] theorem releaseBundles_islot (s : State) :
    (releaseBundles s).islot = noPin := rfl
@[simp] theorem releaseBundles_dir (s : State) :
    (releaseBundles s).dir = s.dir := rfl
@[simp] theorem releaseBundles_lvl (s : State) :
    (releaseBundles s).lvl = s.lvl := rfl
@[simp] theorem releaseBundles_khz (s : State) :
    (releaseBundles s).khz = s.khz := rfl
@[simp] theorem releaseBundles_delayCnt (s : State) :
    (releaseBundles s).delayCnt = s.delayCnt := rfl
@[simp] theorem releaseBundles_trace (s : State) :
    (releaseBundles s).trace = s.trace := rfl
@[simp] theorem releaseBundles_responses (s : State) :
    (releaseBundles s).responses = s.responses := rfl
@[simp] theorem releaseBundles_cmd (s : State) :
    (releaseBundles s).cmd = s.cmd := rfl
@[simp] theorem releaseBundles_resetIn (s : State) :
    (releaseBundles s).resetIn = s.resetIn := rfl
@[simp] theorem releaseBundles_trJtag (s : State) :
    (releaseBundles s).trJtag = s.trJtag := rfl
@[simp] theorem releaseBundles_trSwd (s : State) :
    (releaseBundles s).trSwd = s.trSwd := rfl
@[simp] theorem releaseBundles_allocOutOK (s : State) :
    (releaseBundles s).allocOutOK = s.allocOutOK := rfl
@[simp] theorem releaseBundles_allocInOK (s : State) :
    (releaseBundles s).allocInOK = s.allocInOK := rfl
@[simp] theorem releaseBundles_env (s : State) :
    (releaseBundles s).env = s.env := rfl
@[simp] theorem releaseBundles_params (s : State) :
    (releaseBundles s).params = s.params := rfl
@[simp] theorem releaseBundles_epoch (s : State) :
    (releaseBundles s).epoch = s.epoch := rfl

/-! ### takeCommand -/

@[simp] theorem takeCommand_pa (s : State) :
    (takeCommand s).pa = s.pa := rfl
@[simp] theorem takeCommand_life (s : State) :
    (takeCommand s).life = s.life := rfl
@[simp] theorem takeCommand_jtagOn (s : State) :
    (takeCommand s).jtagOn = s.jtagOn := rfl
@[simp] theorem takeCommand_swdOn (s : State) :
    (takeCommand s).swdOn = s.swdOn := rfl
@[simp] theorem takeCommand_obAlloc (s : State) :
    (takeCommand s).obAlloc = s.obAlloc := rfl
@[simp] theorem takeCommand_oslot (s : State) :
    (takeCommand s).oslot = s.oslot := rfl
@[simp] theorem takeCommand_ibAlloc (s : State) :
    (takeCommand s).ibAlloc = s.ibAlloc := rfl
@[simp] theorem takeCommand_islot (s : State) :
    (takeCommand s).islot = s.islot := rfl
@[simp] theorem takeCommand_dir (s : State) :
    (takeCommand s).dir = s.dir := rfl
@[simp] theorem takeCommand_lvl (s : State) :
    (takeCommand s).lvl = s.lvl := rfl
@[simp] theorem takeCommand_khz (s : State) :
    (takeCommand s).khz = s.khz := rfl
@[simp] theorem takeCommand_delayCnt (s : State) :
    (takeCommand s).delayCnt = s.delayCnt := rfl
@[simp] theorem takeCommand_trace (s : State) :
    (takeCommand s).trace = s.trace := rfl
@[simp] theorem takeCommand_responses (s : State) :
    (takeCommand s).responses = s.responses := rfl
@[simp] theorem takeCommand_cmd (s : State) :
    (takeCommand s).cmd = none := rfl
@[simp] theorem takeCommand_resetIn (s : State) :
    (takeCommand s).resetIn = s.resetIn := rfl
@[simp] theorem takeCommand_trJtag (s : State) :
    (takeCommand s).trJtag = s.trJtag := rfl
@[simp] theorem takeCommand_trSwd (s : State) :
    (takeCommand s).trSwd = s.trSwd := rfl
@[simp] theorem takeCommand_allocOutOK (s : State) :
    (takeCommand s).allocOutOK = s.allocOutOK := rfl
@[simp] theorem takeCommand_allocInOK (s : State) :
    (takeCommand s).allocInOK = s.allocInOK := rfl
@[simp] theorem takeCommand_env (s : State) :
    (takeCommand s).env = s.env := rfl
@[simp] theorem takeCommand_params (s : State) :
    (takeCommand s).params = s.params := rfl
@[simp] theorem takeCommand_epoch (s : State) :
    (takeCommand s).epoch = s.epoch := rfl

/-! ### presentWord -/

@[simp] theorem presentWord_pa (s : State) (w : CmdWord) :
    (presentWord s w).pa = s.pa := rfl
@[simp] theorem presentWord_life (s : State) (w : CmdWord) :
    (presentWord s w).life = s.life := rfl
@[simp] theorem presentWord_jtagOn (s : State) (w : CmdWord) :
    (presentWord s w).jtagOn = s.jtagOn := rfl
@[simp] theorem presentWord_swdOn (s : State) (w : CmdWord) :
    (presentWord s w).swdOn = s.swdOn := rfl
@[simp] theorem presentWord_obAlloc (s : State) (w : CmdWord) :
    (presentWord s w).obAlloc = s.obAlloc := rfl
@[simp] theorem presentWord_oslot (s : State) (w : CmdWord) :
    (presentWord s w).oslot = s.oslot := rfl
@[simp] theorem presentWord_ibAlloc (s : State) (w : CmdWord) :
    (presentWord s w).ibAlloc = s.ibAlloc := rfl
@[simp] theorem presentWord_islot (s : State) (w : CmdWord) :
    (presentWord s w).islot = s.islot := rfl
@[simp] theorem presentWord_dir (s : State) (w : CmdWord) :
    (presentWord s w).dir = s.dir := rfl
@[simp] theorem presentWord_lvl (s : State) (w : CmdWord) :
    (presentWord s w).lvl = s.lvl := rfl
@[simp] theorem presentWord_khz (s : State) (w : CmdWord) :
    (presentWord s w).khz = s.khz := rfl
@[simp] theorem presentWord_delayCnt (s : State) (w : CmdWord) :
    (presentWord s w).delayCnt = s.delayCnt := rfl
@[simp] theorem presentWord_trace (s : State) (w : CmdWord) :
    (presentWord s w).trace = s.trace := rfl
@[simp] theorem presentWord_responses (s : State) (w : CmdWord) :
    (presentWord s w).responses = s.responses := rfl
@[simp] theorem presentWord_cmd (s : State) (w : CmdWord) :
    (presentWord s w).cmd = some w := rfl
@[simp] theorem presentWord_resetIn (s : State) (w : CmdWord) :
    (presentWord s w).resetIn = false := rfl
@[simp] theorem presentWord_trJtag (s : State) (w : CmdWord) :
    (presentWord s w).trJtag = s.trJtag := rfl
@[simp] theorem presentWord_trSwd (s : State) (w : CmdWord) :
    (presentWord s w).trSwd = s.trSwd := rfl
@[simp] theorem presentWord_allocOutOK (s : State) (w : CmdWord) :
    (presentWord s w).allocOutOK = s.allocOutOK := rfl
@[simp] theorem presentWord_allocInOK (s : State) (w : CmdWord) :
    (presentWord s w).allocInOK = s.allocInOK := rfl
@[simp] theorem presentWord_env (s : State) (w : CmdWord) :
    (presentWord s w).env = s.env := rfl
@[simp] theorem presentWord_params (s : State) (w : CmdWord) :
    (presentWord s w).params = s.params := rfl
@[simp] theorem presentWord_epoch (s : State) (w : CmdWord) :
    (presentWord s w).epoch = s.epoch := rfl

/-! ### Aliases of respond, and reading through the updates -/

@[simp] theorem takeError_eq_respond (e : Status) (info : BitVec 32) (s : State) :
    takeError e info s = respond e info s := rfl

@[simp] theorem returnOk_eq_respond (data : BitVec 32) (s : State) :
    returnOk data s = respond .ok data s := rfl

@[simp] theorem log_direction (e : Event) (s : State) (p : Nat) :
    (log e s).direction p = s.direction p := rfl

@[simp] theorem log_level (e : Event) (s : State) (p : Nat) :
    (log e s).level p = s.level p := rfl

@[simp] theorem respond_direction (st : Status) (d : BitVec 32) (s : State) (p : Nat) :
    (respond st d s).direction p = s.direction p := rfl

@[simp] theorem respond_level (st : Status) (d : BitVec 32) (s : State) (p : Nat) :
    (respond st d s).level p = s.level p := rfl

@[simp] theorem applyDelay_direction (s : State) (p : Nat) :
    (applyDelay s).direction p = s.direction p := rfl

@[simp] theorem applyDelay_level (s : State) (p : Nat) :
    (applyDelay s).level p = s.level p := rfl

/-! ### Pin-assignment registers -/

@[simp] theorem get_set_self (r : PinRegs) (x : Signal) (v : PinIdx) :
    (r.set x v).get x = v := by
  cases x <;> rfl

theorem get_set_other (r : PinRegs) (x y : Signal) (v : PinIdx) (h : x ≠ y) :
    (r.set x v).get y = r.get y := by
  cases x <;> cases y <;> first | rfl | exact absurd rfl h

end Sys2Proof.Machine
end

