-- ==== Sys2Proof/Laws/Ops.lean ====
section
/-! SUPPORT. One lemma per shared operation that says everything it can do; later proofs cite these
and do not unfold the operation. -/

namespace Sys2Proof.Machine

/-! ### Sequencing -/

@[simp] theorem andThen_go {α β : Type} (a : α) (s : State) (k : α → State → Run β) :
    (Run.go a s).andThen k = k a s := rfl

@[simp] theorem andThen_raised {α β : Type} (e : Status) (info : BitVec 32) (s : State)
    (k : α → State → Run β) : (Run.raised e info s : Run α).andThen k = .raised e info s := rfl

@[simp] theorem andThen_stop {α β : Type} (f : Fault) (k : α → State → Run β) :
    (Run.stop f : Run α).andThen k = .stop f := rfl

theorem andThen_eq_go {α β : Type} {r : Run α} {k : α → State → Run β} {b : β} {t : State} :
    r.andThen k = .go b t ↔ ∃ a s, r = .go a s ∧ k a s = .go b t := by
  cases r <;> simp

theorem andThen_eq_raised {α β : Type} {r : Run α} {k : α → State → Run β} {e : Status}
    {info : BitVec 32} {t : State} :
    r.andThen k = .raised e info t ↔
      r = .raised e info t ∨ ∃ a s, r = .go a s ∧ k a s = .raised e info t := by
  cases r <;> simp

theorem andThen_eq_stop {α β : Type} {r : Run α} {k : α → State → Run β} {f : Fault} :
    r.andThen k = .stop f ↔ r = .stop f ∨ ∃ a s, r = .go a s ∧ k a s = .stop f := by
  cases r <;> simp

@[simp] theorem answer_go (d : BitVec 32) (s : State) :
    (Run.go d s).answer = .next (respond .ok d s) := rfl

@[simp] theorem answer_raised (e : Status) (info : BitVec 32) (s : State) :
    (Run.raised e info s).answer = .next (respond e info s) := rfl

@[simp] theorem answer_stop (f : Fault) : (Run.stop f).answer = .fault f := rfl

/-- A finished command answered `OK` or took an error, with one response word either way. -/
theorem answer_eq_next {r : Run (BitVec 32)} {t : State} :
    r.answer = .next t ↔
      (∃ d s, r = .go d s ∧ t = respond .ok d s) ∨
      (∃ e info s, r = .raised e info s ∧ t = respond e info s) := by
  cases r <;> simp [eq_comm]

theorem answer_eq_fault {r : Run (BitVec 32)} {f : Fault} :
    r.answer = .fault f ↔ r = .stop f := by
  cases r <;> simp

theorem answer_ne_refused (r : Run (BitVec 32)) (x : Refusal) : r.answer ≠ .refused x := by
  cases r <;> simp

/-! ### Guards -/

@[simp] theorem require_true (e : Status) (s : State) : require true e s = .go () s := rfl

@[simp] theorem require_false (e : Status) (s : State) : require false e s = .raised e 0 s := rfl

@[simp] theorem when_true (act : State → Run Unit) (s : State) : when true act s = act s := rfl

@[simp] theorem when_false (act : State → Run Unit) (s : State) : when false act s = .go () s := rfl

/-! ### The platform predicates (00_scope R5) -/

@[simp] theorem pinValid_noPin (ps : Params) : pinValid ps noPin = false := rfl

theorem pinValid_ne_noPin {ps : Params} {p : PinIdx} (h : pinValid ps p = true) : p ≠ noPin := by
  rintro rfl
  simp at h

theorem pinValid_lt_npins {ps : Params} {p : PinIdx} (h : pinValid ps p = true) :
    p.toNat < ps.npins := by
  simp only [pinValid, Bool.and_eq_true, decide_eq_true_eq] at h
  exact h.2.1

theorem pinValid_of_outCapable {ps : Params} {p : PinIdx} (h : pinOutCapable ps p = true) :
    pinValid ps p = true := by
  simp only [pinOutCapable, Bool.and_eq_true] at h
  exact h.1

/-! ### The pins -/

theorem direction_of_dir_set (s : State) (p q : Nat) (d : Drive) :
    ({ s with dir := PinMap.set s.dir p d } : State).direction q =
      if q = p then some d else s.direction q :=
  pinMap_get_set s.dir p q d

theorem level_of_lvl_set (s : State) (p q : Nat) (b : Bool) :
    ({ s with lvl := PinMap.set s.lvl p b } : State).level q =
      if q = p then b else s.level q := by
  simp only [State.level, pinMap_get_set]
  by_cases h : q = p <;> simp [h]

/-- `PinSetDir` on a pin the platform can switch (20_memory R41). -/
theorem pinSetDir_of_ok {p : PinIdx} {d : Drive} {s : State}
    (hv : pinValid s.params p = true) (hc : d = .output → pinOutCapable s.params p = true) :
    pinSetDir p d s =
      .go () (log (.dir p.toNat d) { s with dir := PinMap.set s.dir p.toNat d }) := by
  have hn : ¬ (d = .output ∧ pinOutCapable s.params p = false) := by
    rintro ⟨hd, hf⟩
    simp [hc hd] at hf
  simp [pinSetDir, hv, hn]

/-- `PinSetDir` on a pin the platform calls unusable (93 U6). -/
theorem pinSetDir_of_invalid {p : PinIdx} {d : Drive} {s : State}
    (hv : pinValid s.params p = false) : pinSetDir p d s = .stop (.pinNotValid p) := by
  simp [pinSetDir, hv]

/-- `PinSetDir(p, OUT)` on a pin that is not output-capable (93 U6). -/
theorem pinSetDir_of_incapable {p : PinIdx} {s : State} (hv : pinValid s.params p = true)
    (hc : pinOutCapable s.params p = false) :
    pinSetDir p .output s = .stop (.pinNotOutCapable p) := by
  simp [pinSetDir, hv, hc]

/-- `PinSetLevel` on a usable pin (20_memory R42). -/
theorem pinSetLevel_of_valid {p : PinIdx} {b : Bool} {s : State}
    (hv : pinValid s.params p = true) :
    pinSetLevel p b s =
      .go () (log (.drv [(p.toNat, b)]) { s with lvl := PinMap.set s.lvl p.toNat b }) := by
  simp [pinSetLevel, hv]

/-- `PinSetLevel` on a pin the platform calls unusable (93 U6). -/
theorem pinSetLevel_of_invalid {p : PinIdx} {b : Bool} {s : State}
    (hv : pinValid s.params p = false) : pinSetLevel p b s = .stop (.pinNotValid p) := by
  simp [pinSetLevel, hv]

/-- Everything `PinSetDir` can do. -/
theorem pinSetDir_cases (p : PinIdx) (d : Drive) (s : State) :
    (pinValid s.params p = false ∧ pinSetDir p d s = .stop (.pinNotValid p)) ∨
    (pinValid s.params p = true ∧ d = .output ∧ pinOutCapable s.params p = false ∧
      pinSetDir p d s = .stop (.pinNotOutCapable p)) ∨
    (pinValid s.params p = true ∧ (d = .output → pinOutCapable s.params p = true) ∧
      pinSetDir p d s =
        .go () (log (.dir p.toNat d) { s with dir := PinMap.set s.dir p.toNat d })) := by
  cases hv : pinValid s.params p with
  | false => exact .inl ⟨rfl, pinSetDir_of_invalid hv⟩
  | true =>
    by_cases hn : d = .output ∧ pinOutCapable s.params p = false
    · obtain ⟨rfl, hc⟩ := hn
      exact .inr (.inl ⟨rfl, rfl, hc, pinSetDir_of_incapable hv hc⟩)
    · have hc : d = .output → pinOutCapable s.params p = true := fun hd => by
        simpa using fun h => hn ⟨hd, h⟩
      exact .inr (.inr ⟨rfl, hc, pinSetDir_of_ok hv hc⟩)

/-- Everything `PinSetLevel` can do. -/
theorem pinSetLevel_cases (p : PinIdx) (b : Bool) (s : State) :
    (pinValid s.params p = false ∧ pinSetLevel p b s = .stop (.pinNotValid p)) ∨
    (pinValid s.params p = true ∧
      pinSetLevel p b s =
        .go () (log (.drv [(p.toNat, b)]) { s with lvl := PinMap.set s.lvl p.toNat b })) := by
  cases hv : pinValid s.params p with
  | false => exact .inl ⟨rfl, pinSetLevel_of_invalid hv⟩
  | true => exact .inr ⟨rfl, pinSetLevel_of_valid hv⟩

/-- The state after `SetOut(p, b)` (44_lifecycle R143). -/
def setOutState (p : PinIdx) (b : Bool) (s : State) : State :=
  { s with
    dir := PinMap.set s.dir p.toNat .output
    lvl := PinMap.set s.lvl p.toNat b
    trace := s.trace ++ [.dir p.toNat .output, .drv [(p.toNat, b)]] }

/-- `SetOut` on an output-capable pin. -/
theorem setOut_of_capable {p : PinIdx} {s : State} (b : Bool)
    (h : pinOutCapable s.params p = true) : setOut p b s = .go () (setOutState p b s) := by
  have hv := pinValid_of_outCapable h
  simp [setOut, pinSetDir_of_ok hv fun _ => h, pinSetLevel_of_valid, hv, setOutState, log]

/-- Everything `SetOut` can do: it goes on exactly on an output-capable pin (93 U6). -/
theorem setOut_cases (p : PinIdx) (b : Bool) (s : State) :
    (pinValid s.params p = false ∧ setOut p b s = .stop (.pinNotValid p)) ∨
    (pinValid s.params p = true ∧ pinOutCapable s.params p = false ∧
      setOut p b s = .stop (.pinNotOutCapable p)) ∨
    (pinOutCapable s.params p = true ∧ setOut p b s = .go () (setOutState p b s)) := by
  cases hc : pinOutCapable s.params p with
  | true => exact .inr (.inr ⟨rfl, setOut_of_capable b hc⟩)
  | false =>
    cases hv : pinValid s.params p with
    | false => exact .inl ⟨rfl, by simp [setOut, pinSetDir_of_invalid hv]⟩
    | true => exact .inr (.inl ⟨rfl, rfl, by simp [setOut, pinSetDir_of_incapable hv hc]⟩)

@[simp] theorem setOutState_direction (p : PinIdx) (b : Bool) (s : State) (q : Nat) :
    (setOutState p b s).direction q = if q = p.toNat then some .output else s.direction q :=
  pinMap_get_set s.dir p.toNat q .output

@[simp] theorem setOutState_level (p : PinIdx) (b : Bool) (s : State) (q : Nat) :
    (setOutState p b s).level q = if q = p.toNat then b else s.level q := by
  simp only [State.level, setOutState, pinMap_get_set]
  by_cases h : q = p.toNat <;> simp [h]

/-! ### Samples -/

/-- A sample changes only TRACE and, when it is scripted, the environment (20_memory R43, R49). -/
theorem samplePad_eq (p : Nat) (s : State) :
    samplePad p s = .go (answerSample s p).1
      { s with
        env := (answerSample s p).2
        trace := s.trace ++ [.smp p (answerSample s p).1] } := rfl

theorem answerSample_loopback (s : State) (p : Nat) (h : s.env = .loopback) :
    answerSample s p = (s.level p, .loopback) := by
  simp [answerSample, h]

theorem pad_of_driven {s : State} {p : Nat} (h : s.direction p = some .output) :
    s.pad p = s.level p := by
  simp [State.pad, h]

theorem pad_of_undriven {s : State} {p : Nat} (h : s.direction p ≠ some .output) :
    s.pad p = s.padIn p := by
  unfold State.pad
  split
  · exact absurd ‹_› h
  · rfl
  · rfl

/-- A sample of a pad PINSEQ does not drive returns the level seen there (20_memory R43, R45). -/
theorem answerSample_of_undriven {s : State} {p : Nat} (h : s.direction p ≠ some .output) :
    (answerSample s p).1 = s.padIn p := by
  have hf : freeSample s p = Config.padIn s.epoch s.trace p := by
    unfold freeSample
    split
    · exact absurd ‹_› h
    · rfl
    · rfl
  simp only [answerSample, State.padIn]
  split <;> simp [*]

theorem pinGetLevel_of_invalid {p : PinIdx} {s : State} (h : pinValid s.params p = false) :
    pinGetLevel p s = .stop (.pinNotValid p) := by
  simp [pinGetLevel, h]

theorem pinGetLevel_of_valid {p : PinIdx} {s : State} (h : pinValid s.params p = true) :
    pinGetLevel p s = samplePad p.toNat s := by
  simp [pinGetLevel, h]

/-! ### Bundles -/

/-- What a bundle write selects: mask bit 1, slot present (20_memory R44). -/
theorem mem_selectedSlots {oslot : Vector PinIdx 6} {mask val : BitVec 6} {e : Nat × Bool} :
    e ∈ selectedSlots oslot mask val ↔
      ∃ i : Fin 6, mask.getLsbD i.val = true ∧ oslot[i] ≠ noPin ∧
        e = (oslot[i].toNat, val.getLsbD i.val) := by
  have hall : ∀ i : Fin 6, i ∈ ([0, 1, 2, 3, 4, 5] : List (Fin 6)) := by decide
  simp only [selectedSlots, List.mem_filterMap]
  constructor
  · rintro ⟨i, -, h⟩
    split at h
    · rename_i hc
      simp only [Bool.and_eq_true, bne_iff_ne] at hc
      exact ⟨i, hc.1, hc.2, (Option.some.inj h).symm⟩
    · simp at h
  · rintro ⟨i, h1, h2, rfl⟩
    exact ⟨i, hall i, by simpa [h1] using h2⟩

/-- The state after a bundle write (20_memory R44). -/
def bundleState (mask val : BitVec 6) (s : State) : State :=
  { s with
    lvl := PinMap.setAll s.lvl (bundleUpdates s mask val)
    trace := s.trace ++ [.drv (bundleUpdates s mask val)] }

/-- `BundleWrite` with a bundle. -/
theorem bundleWrite_of_alloc {mask val : BitVec 6} {s : State} (h : s.obAlloc = true) :
    bundleWrite mask val s = .go () (bundleState mask val s) := by
  simp [bundleWrite, h, bundleState, log]

/-- `BundleWrite` without one. -/
theorem bundleWrite_of_none {mask val : BitVec 6} {s : State} (h : s.obAlloc = false) :
    bundleWrite mask val s = .stop .noOutputBundle := by
  simp [bundleWrite, h]

/-- `BundleRead` samples the input slot (20_memory R45). -/
theorem bundleRead_of_alloc {s : State} (h : s.ibAlloc = true) :
    bundleRead s = samplePad s.islot.toNat s := by
  simp [bundleRead, h]

/-- `BundleRead` without a bundle. -/
theorem bundleRead_of_none {s : State} (h : s.ibAlloc = false) :
    bundleRead s = .stop .noInputBundle := by
  simp [bundleRead, h]

/-- The selection of one bundle write gives each pin one value after settling, and the updates are
canonical. -/
theorem bundleUpdates_wf (s : State) (mask val : BitVec 6) :
    PinMap.WF (bundleUpdates s mask val) :=
  pinMap_wf_setAll _ [] List.Pairwise.nil

/-- A pin no selected slot holds is not updated. -/
theorem bundleUpdates_get_none {s : State} {mask val : BitVec 6} {p : Nat}
    (h : ∀ e ∈ selectedSlots s.oslot mask val, e.1 ≠ p) :
    PinMap.get (bundleUpdates s mask val) p = none := by
  refine (pinMap_get_setAll_other _ [] p ?_).trans rfl
  intro e he
  obtain ⟨x, hx, rfl⟩ := List.mem_map.mp he
  exact h x hx

/-- A pin selected with one bit only is updated to that bit. -/
theorem bundleUpdates_get_of_one {s : State} {mask val : BitVec 6} {p : Nat} {b : Bool}
    (hmem : (p, b) ∈ selectedSlots s.oslot mask val)
    (hone : (p, !b) ∉ selectedSlots s.oslot mask val) :
    PinMap.get (bundleUpdates s mask val) p = some b := by
  refine pinMap_get_setAll_mem _ [] p b ?_ ?_
  · refine List.mem_map.mpr ⟨(p, b), hmem, ?_⟩
    simp [settledLevel, hone]
  · intro e he hep
    obtain ⟨⟨q, c⟩, hx, rfl⟩ := List.mem_map.mp he
    simp only at hep
    subst hep
    have hcb : c = b := by
      by_contra hne
      have : c = !b := by cases c <;> cases b <;> simp_all
      exact hone (this ▸ hx)
    subst hcb
    simp [settledLevel, hone]

/-- A pin selected with both bits is updated to the free value (93 U7). -/
theorem bundleUpdates_get_of_both {s : State} {mask val : BitVec 6} {p : Nat}
    (h0 : (p, false) ∈ selectedSlots s.oslot mask val)
    (h1 : (p, true) ∈ selectedSlots s.oslot mask val) :
    PinMap.get (bundleUpdates s mask val) p =
      some (Config.sharedPinLevel s.epoch s.trace p) := by
  refine pinMap_get_setAll_mem _ [] p _ ?_ ?_
  · refine List.mem_map.mpr ⟨(p, false), h0, ?_⟩
    simp [settledLevel, h1]
  · intro e he hep
    obtain ⟨⟨q, c⟩, hx, rfl⟩ := List.mem_map.mp he
    simp only at hep
    subst hep
    cases c <;> simp [settledLevel, h0, h1]

/-- Reading a latch after a canonical set of updates. -/
theorem get_setAll_of_wf {α : Type} (m u : PinMap α) (hu : PinMap.WF u) (p : Nat) :
    PinMap.get (PinMap.setAll m u) p =
      match PinMap.get u p with
      | some a => some a
      | none => PinMap.get m p := by
  cases h : PinMap.get u p with
  | some a =>
    refine pinMap_get_setAll_mem u m p a ((pinMap_mem_iff_get u hu p a).mpr h) ?_
    rintro ⟨q, c⟩ he rfl
    have := (pinMap_mem_iff_get u hu _ c).mp he
    exact Option.some.inj (this.symm.trans h)
  | none =>
    refine pinMap_get_setAll_other u m p ?_
    rintro ⟨q, c⟩ he rfl
    have := (pinMap_mem_iff_get u hu _ c).mp he
    exact absurd (this.symm.trans h) (by simp)

/-- The latches after a bundle write: the updates where there is one, the old latch elsewhere. -/
theorem bundleState_level (mask val : BitVec 6) (s : State) (p : Nat) :
    (bundleState mask val s).level p =
      match PinMap.get (bundleUpdates s mask val) p with
      | some b => b
      | none => s.level p := by
  simp only [State.level, bundleState, get_setAll_of_wf _ _ (bundleUpdates_wf s mask val)]
  cases PinMap.get (bundleUpdates s mask val) p <;> rfl

/-! ### What a bundle write and a sample leave as they are -/

@[simp] theorem bundleState_direction (mask val : BitVec 6) (s : State) (p : Nat) :
    (bundleState mask val s).direction p = s.direction p := rfl

@[simp] theorem bundleState_oslot (mask val : BitVec 6) (s : State) :
    (bundleState mask val s).oslot = s.oslot := rfl

@[simp] theorem bundleState_obAlloc (mask val : BitVec 6) (s : State) :
    (bundleState mask val s).obAlloc = s.obAlloc := rfl

@[simp] theorem bundleState_pa (mask val : BitVec 6) (s : State) :
    (bundleState mask val s).pa = s.pa := rfl

@[simp] theorem bundleState_params (mask val : BitVec 6) (s : State) :
    (bundleState mask val s).params = s.params := rfl

end Sys2Proof.Machine
end

