-- ==== Sys2Proof/Laws/Commands.lean ====
section
/-! SUPPORT. What each command can do, in one equation: its guard, its effect, its stop. INIT stands in
Laws/Lifecycle.lean. -/

namespace Sys2Proof.Machine

/-! ### Configuration -/

/-- The registers after the set part of a configuration command (40_pin_config R80). -/
def setPinsState (sigs : List Signal) (c : CfgArgs) (s : State) : State :=
  { s with pa := s.pa.setAll (sigs.zip (cfgPins c)) }

/-- Everything a configuration command can do (R80). -/
theorem config_answer (sigs : List Signal) (c : CfgArgs) (s : State) :
    (config sigs c s).answer =
      if c.argc = 0 ∨ c.argc = sigCount sigs then
        if c.argc = sigCount sigs then
          if s.life = .unconfigured then
            .next (respond .ok (packPins (sigs.map (setPinsState sigs c s).pa.get))
              (setPinsState sigs c s))
          else .next (respond .errUnavailable 0 s)
        else .next (respond .ok (packPins (sigs.map s.pa.get)) s)
      else .next (respond .errSyntax 0 s) := by
  by_cases hn : c.argc = sigCount sigs
  · by_cases hl : s.life = .unconfigured
    · simp [config, setPins, hn, hl, isUnconfigured, setPinsState]
    · have hb : (s.life == Life.unconfigured) = false := by simpa using hl
      simp [config, setPins, hn, hl, isUnconfigured, hb]
  · have hb : (c.argc == sigCount sigs) = false := by simpa using hn
    by_cases h0 : c.argc = 0#8
    · have hz : ¬ (0#8 = sigCount sigs) := h0 ▸ hn
      have hzb : ((0#8) == sigCount sigs) = false := by simpa using hz
      simp [config, h0, hz, hzb]
    · have h0b : (c.argc == 0#8) = false := by simpa using h0
      simp [config, hn, hb, h0, h0b]

/-! ### Speed -/

theorem execSpeedSet_eq (khz : BitVec 32) (s : State) :
    execSpeedSet khz s =
      if khz = 0 then .next (respond .errUnsupportedSpeed 0 s)
      else .next (respond .ok 0 { s with khz := khz }) := by
  by_cases h : khz = 0#32
  · simp [execSpeedSet, speedSetRun, h]
  · have hb : (khz != 0#32) = true := by simpa using h
    simp [execSpeedSet, speedSetRun, h, hb]

theorem execSpeedGet_eq (s : State) : execSpeedGet s = .next (respond .ok s.khz s) := rfl

/-! ### QUIT -/

/-- The state after QUIT (44_lifecycle R151). -/
def quitState (s : State) : State :=
  { releaseBundles s with jtagOn := false, swdOn := false, life := .shutdown }

theorem execQuit_eq (s : State) : execQuit s = .next (respond .ok 0 (quitState s)) := rfl

/-! ### JTAG primitives -/

theorem execJtagWrite_eq (tck tms tdi : Bool) (s : State) :
    execJtagWrite tck tms tdi s =
      if jtagAvailable s = true then
        if s.obAlloc = true then
          .next (respond .ok 0
            (applyDelay (bundleState maskJtagWrite (jtagWriteValue tck tms tdi) s)))
        else .fault .noOutputBundle
      else .next (respond .errUnavailable 0 s) := by
  cases ha : jtagAvailable s <;> cases ho : s.obAlloc <;>
    simp [execJtagWrite, jtagWriteRun, ha, ho, bundleWrite_of_alloc, bundleWrite_of_none]

theorem execJtagRead_eq (s : State) :
    execJtagRead s =
      if jtagAvailable s = true then
        if s.ibAlloc = true then
          .next (respond .ok (zext32 (answerSample s s.islot.toNat).1)
            { s with
              env := (answerSample s s.islot.toNat).2
              trace := s.trace ++ [.smp s.islot.toNat (answerSample s s.islot.toNat).1] })
        else .fault .noInputBundle
      else .next (respond .errUnavailable 0 s) := by
  cases ha : jtagAvailable s <;> cases ho : s.ibAlloc <;>
    simp [execJtagRead, jtagReadRun, ha, ho, bundleRead_of_alloc, bundleRead_of_none,
      samplePad_eq]

/-- The state after one bundle write that is made only when its signal is assigned. -/
def lineState (sig : Signal) (mask val : BitVec 6) (s : State) : State :=
  if s.pa.assigned sig = true then bundleState mask val s else s

/-- The state after JTAG_RESET (41_jtag R103). -/
def jtagResetState (trst srst : Bool) (s : State) : State :=
  lineState .srst maskSrst (bitAt 4 (resetLevel s.params.srstAssertLevel srst))
    (lineState .trst maskTrst (bitAt 3 (resetLevel s.params.trstAssertLevel trst)) s)

/-- With no line configured nothing is written, so no bundle is needed (41_jtag R103). -/
theorem execJtagReset_eq (trst srst : Bool) (s : State) :
    execJtagReset trst srst s =
      if jtagAvailable s = true then
        if s.obAlloc = true ∨ (s.pa.assigned .trst = false ∧ s.pa.assigned .srst = false) then
          .next (respond .ok 0 (jtagResetState trst srst s))
        else .fault .noOutputBundle
      else .next (respond .errUnavailable 0 s) := by
  cases ha : jtagAvailable s <;> cases ho : s.obAlloc <;>
    cases ht : s.pa.assigned .trst <;> cases hs : s.pa.assigned .srst <;>
    simp [execJtagReset, jtagResetRun, ha, ho, ht, hs, jtagResetState, lineState,
      bundleWrite_of_alloc, bundleWrite_of_none]

theorem execJtagBlink_eq (on : Bool) (s : State) :
    execJtagBlink on s =
      if jtagBlinkAvailable s = true then
        if s.obAlloc = true then .next (respond .ok 0 (bundleState maskBlink (bitAt 5 on) s))
        else .fault .noOutputBundle
      else .next (respond .errUnavailable 0 s) := by
  cases ha : jtagBlinkAvailable s <;> cases ho : s.obAlloc <;>
    simp [execJtagBlink, jtagBlinkRun, ha, ho, bundleWrite_of_alloc, bundleWrite_of_none]

/-! ### SWD primitives -/

/-- The state after `PinSetDir` (20_memory R41). -/
def dirState (p : PinIdx) (d : Drive) (s : State) : State :=
  { s with dir := PinMap.set s.dir p.toNat d, trace := s.trace ++ [.dir p.toNat d] }

/-- The state after `PinSetLevel` (20_memory R42). -/
def levelState (p : PinIdx) (b : Bool) (s : State) : State :=
  { s with lvl := PinMap.set s.lvl p.toNat b, trace := s.trace ++ [.drv [(p.toNat, b)]] }

theorem execSwdDrive_eq (isOutput : Bool) (s : State) :
    execSwdDrive isOutput s =
      if swdAvailable s = true then
        if pinValid s.params s.pa.swdio = false then .fault (.pinNotValid s.pa.swdio)
        else if isOutput = true ∧ pinOutCapable s.params s.pa.swdio = false then
          .fault (.pinNotOutCapable s.pa.swdio)
        else .next (respond .ok 0 (dirState s.pa.swdio (swdDirection isOutput) s))
      else .next (respond .errUnavailable 0 s) := by
  cases ha : swdAvailable s
  · simp [execSwdDrive, swdDriveRun, ha]
  · rcases pinSetDir_cases s.pa.swdio (swdDirection isOutput) s with
      ⟨hv, h⟩ | ⟨hv, hd, hc, h⟩ | ⟨hv, hc, h⟩
    · simp [execSwdDrive, swdDriveRun, ha, h, hv]
    · cases isOutput
      · simp [swdDirection] at hd
      · simp [execSwdDrive, swdDriveRun, ha, h, hv, hc]
    · cases isOutput
      · simp [execSwdDrive, swdDriveRun, ha, h, hv, dirState, log]
      · have hcap := hc rfl
        simp [execSwdDrive, swdDriveRun, ha, h, hv, hcap, dirState, log]

/-- The state after the two level writes of SWD_WRITE (42_swd R117). -/
def swdLevelsState (clockFirst swclk swdio : Bool) (s : State) : State :=
  match clockFirst with
  | true => levelState s.pa.swdio swdio (levelState s.pa.swclk swclk s)
  | false => levelState s.pa.swclk swclk (levelState s.pa.swdio swdio s)

/-- SWD_WRITE on usable pins; a pin that is not usable stops it. -/
theorem execSwdWrite_eq (swclk swdio : Bool) (s : State) :
    execSwdWrite swclk swdio s =
      if swdAvailable s = true then
        if pinValid s.params s.pa.swclk = true ∧ pinValid s.params s.pa.swdio = true then
          .next (respond .ok 0
            (applyDelay (swdLevelsState (clockGoesFirst s) swclk swdio s)))
        else
          .fault (.pinNotValid
            (if clockGoesFirst s = true then
              if pinValid s.params s.pa.swclk = false then s.pa.swclk else s.pa.swdio
            else if pinValid s.params s.pa.swdio = false then s.pa.swdio else s.pa.swclk))
      else .next (respond .errUnavailable 0 s) := by
  cases ha : swdAvailable s
  · simp [execSwdWrite, swdWriteRun, ha]
  · cases ho : clockGoesFirst s <;> cases hc : pinValid s.params s.pa.swclk <;>
      cases hd : pinValid s.params s.pa.swdio <;>
      simp [execSwdWrite, swdWriteRun, ha, ho, hc, hd, swdLevels, swdLevelsState,
        pinSetLevel_of_valid, pinSetLevel_of_invalid, levelState, log]

theorem execSwdRead_eq (s : State) :
    execSwdRead s =
      if swdAvailable s = true then
        if pinValid s.params s.pa.swdio = true then
          .next (respond .ok (zext32 (answerSample s s.pa.swdio.toNat).1)
            { s with
              env := (answerSample s s.pa.swdio.toNat).2
              trace :=
                s.trace ++ [.smp s.pa.swdio.toNat (answerSample s s.pa.swdio.toNat).1] })
        else .fault (.pinNotValid s.pa.swdio)
      else .next (respond .errUnavailable 0 s) := by
  cases ha : swdAvailable s <;> cases hv : pinValid s.params s.pa.swdio <;>
    simp [execSwdRead, swdReadRun, ha, hv, pinGetLevel_of_valid, pinGetLevel_of_invalid,
      samplePad_eq]

theorem execSwdBlink_eq (on : Bool) (s : State) :
    execSwdBlink on s =
      if swdBlinkAvailable s = true then
        if pinValid s.params s.pa.blink = true then
          .next (respond .ok 0 (levelState s.pa.blink on s))
        else .fault (.pinNotValid s.pa.blink)
      else .next (respond .errUnavailable 0 s) := by
  cases ha : swdBlinkAvailable s <;> cases hv : pinValid s.params s.pa.blink <;>
    simp [execSwdBlink, swdBlinkRun, ha, hv, pinSetLevel_of_valid, pinSetLevel_of_invalid,
      levelState, log]

/-! ### Reading through the states above -/

@[simp] theorem dirState_direction (p : PinIdx) (d : Drive) (s : State) (q : Nat) :
    (dirState p d s).direction q = if q = p.toNat then some d else s.direction q :=
  pinMap_get_set s.dir p.toNat q d

@[simp] theorem dirState_level (p : PinIdx) (d : Drive) (s : State) (q : Nat) :
    (dirState p d s).level q = s.level q := rfl

@[simp] theorem levelState_direction (p : PinIdx) (b : Bool) (s : State) (q : Nat) :
    (levelState p b s).direction q = s.direction q := rfl

@[simp] theorem levelState_level (p : PinIdx) (b : Bool) (s : State) (q : Nat) :
    (levelState p b s).level q = if q = p.toNat then b else s.level q := by
  simp only [State.level, levelState, pinMap_get_set]
  by_cases h : q = p.toNat <;> simp [h]

end Sys2Proof.Machine
end

