-- ==== Sys2Proof/Laws/Lifecycle.lean ====
section
/-! SUPPORT. Everything INIT can do, phase by phase (spec 44_lifecycle R143 to R149), so that no later
proof unfolds its pseudocode. -/

namespace Sys2Proof.Machine

/-! ### The states INIT passes through -/

/-- After `SetupJtagPins()` (R145). -/
def jtagPinsState (s : State) : State :=
  setOutState s.pa.tms true (setOutState s.pa.tck false (setOutState s.pa.tdi false s))

/-- After `AllocBundles()` (R146). -/
def bundlesState (s : State) : State :=
  dirState s.pa.tdo .input
    { s with obAlloc := true, oslot := bundlePins s.pa, ibAlloc := true, islot := s.pa.tdo }

/-- After `FailAlloc` (R146, R153). -/
def failedState (s : State) : State := { releaseBundles s with life := .shutdown }

/-- After `SetupSwdPins()` (R147). -/
def swdPinsState (s : State) : State :=
  setOutState s.pa.swclk false (setOutState s.pa.swdio false s)

/-- After one optional pin (R148). -/
def optionalState (p : PinIdx) (b : Bool) (s : State) : State :=
  if p = noPin then s else setOutState p b s

/-- After `SetupOptionalPins()` (R148). -/
def optionalPinsState (s : State) : State :=
  optionalState s.pa.blink false
    (optionalState s.pa.srst (resetLevel s.params.srstAssertLevel false)
      (optionalState s.pa.trst (resetLevel s.params.trstAssertLevel false) s))

/-- After the JTAG part, when it is requested. -/
def jtagPart (j : Bool) (s : State) : State := if j then bundlesState (jtagPinsState s) else s

/-- After the SWD part, when it is requested. -/
def swdPart (w : Bool) (s : State) : State := if w then swdPinsState s else s

/-- After a successful INIT (R149). -/
def initState (j w : Bool) (s : State) : State :=
  { optionalPinsState (swdPart w (jtagPart j { s with life := .validated })) with
    jtagOn := j, swdOn := w, life := .active }

/-! ### What the phases leave alone -/

@[simp] theorem setOutState_pa (p : PinIdx) (b : Bool) (s : State) :
    (setOutState p b s).pa = s.pa := rfl

@[simp] theorem setOutState_params (p : PinIdx) (b : Bool) (s : State) :
    (setOutState p b s).params = s.params := rfl

@[simp] theorem jtagPinsState_pa (s : State) : (jtagPinsState s).pa = s.pa := rfl

@[simp] theorem jtagPinsState_params (s : State) : (jtagPinsState s).params = s.params := rfl

@[simp] theorem jtagPart_pa (j : Bool) (s : State) : (jtagPart j s).pa = s.pa := by
  cases j <;> rfl

@[simp] theorem jtagPart_params (j : Bool) (s : State) : (jtagPart j s).params = s.params := by
  cases j <;> rfl

@[simp] theorem swdPart_pa (w : Bool) (s : State) : (swdPart w s).pa = s.pa := by
  cases w <;> rfl

@[simp] theorem swdPart_params (w : Bool) (s : State) : (swdPart w s).params = s.params := by
  cases w <;> rfl

@[simp] theorem optionalState_pa (p : PinIdx) (b : Bool) (s : State) :
    (optionalState p b s).pa = s.pa := by
  unfold optionalState
  split <;> rfl

@[simp] theorem optionalState_params (p : PinIdx) (b : Bool) (s : State) :
    (optionalState p b s).params = s.params := by
  unfold optionalState
  split <;> rfl

/-- An optional pin only has its direction and level set, with the events. -/
theorem optionalState_frame (p : PinIdx) (b : Bool) (s : State) :
    optionalState p b s =
      { s with
        dir := (optionalState p b s).dir
        lvl := (optionalState p b s).lvl
        trace := (optionalState p b s).trace } := by
  unfold optionalState
  split <;> rfl

theorem optionalState_direction (p : PinIdx) (b : Bool) (s : State) (q : Nat) :
    (optionalState p b s).direction q =
      if p ≠ noPin ∧ q = p.toNat then some .output else s.direction q := by
  unfold optionalState
  by_cases h : p = noPin <;> simp [h]

theorem optionalState_level (p : PinIdx) (b : Bool) (s : State) (q : Nat) :
    (optionalState p b s).level q = if p ≠ noPin ∧ q = p.toNat then b else s.level q := by
  unfold optionalState
  by_cases h : p = noPin <;> simp [h]

/-- The optional pins only have directions and levels set, with the events. -/
theorem optionalPinsState_frame (s : State) :
    optionalPinsState s =
      { s with
        dir := (optionalPinsState s).dir
        lvl := (optionalPinsState s).lvl
        trace := (optionalPinsState s).trace } := by
  unfold optionalPinsState
  rw [optionalState_frame s.pa.blink, optionalState_frame s.pa.srst,
    optionalState_frame s.pa.trst]

/-! ### Directions and latches after INIT (R154) -/

@[simp] theorem bundlesState_pa (s : State) : (bundlesState s).pa = s.pa := rfl

@[simp] theorem bundlesState_direction (s : State) (q : Nat) :
    (bundlesState s).direction q = if q = s.pa.tdo.toNat then some .input else s.direction q :=
  dirState_direction _ _ _ _

@[simp] theorem bundlesState_level (s : State) (q : Nat) :
    (bundlesState s).level q = s.level q := rfl

theorem ite_or_eq {α : Type} (p q : Prop) [Decidable p] [Decidable q] (a b : α) :
    (if p ∨ q then a else b) = if p then a else if q then a else b := by
  by_cases p <;> by_cases q <;> simp [*]

/-- The direction of every pin after INIT: the last phase that names the pin decides. -/
theorem initState_direction (j w : Bool) (s : State) (q : Nat) :
    (initState j w s).direction q =
      if s.pa.blink ≠ noPin ∧ q = s.pa.blink.toNat then some .output
      else if s.pa.srst ≠ noPin ∧ q = s.pa.srst.toNat then some .output
      else if s.pa.trst ≠ noPin ∧ q = s.pa.trst.toNat then some .output
      else if w = true ∧ (q = s.pa.swclk.toNat ∨ q = s.pa.swdio.toNat) then some .output
      else if j = true ∧ q = s.pa.tdo.toNat then some .input
      else if j = true ∧ (q = s.pa.tms.toNat ∨ q = s.pa.tck.toNat ∨ q = s.pa.tdi.toNat) then
        some .output
      else s.direction q := by
  have hv : ({ s with life := .validated } : State).direction q = s.direction q := rfl
  change (optionalPinsState (swdPart w (jtagPart j { s with life := .validated }))).direction q = _
  simp only [optionalPinsState, optionalState_direction, swdPart_pa, jtagPart_pa]
  congr 1; congr 1; congr 1
  cases w <;> cases j <;>
    simp [swdPart, jtagPart, swdPinsState, jtagPinsState, ite_or_eq, hv]

/-- The latch of every pin after INIT. -/
theorem initState_level (j w : Bool) (s : State) (q : Nat) :
    (initState j w s).level q =
      if s.pa.blink ≠ noPin ∧ q = s.pa.blink.toNat then false
      else if s.pa.srst ≠ noPin ∧ q = s.pa.srst.toNat then !s.params.srstAssertLevel
      else if s.pa.trst ≠ noPin ∧ q = s.pa.trst.toNat then !s.params.trstAssertLevel
      else if w = true ∧ (q = s.pa.swclk.toNat ∨ q = s.pa.swdio.toNat) then false
      else if j = true ∧ q = s.pa.tms.toNat then true
      else if j = true ∧ (q = s.pa.tck.toNat ∨ q = s.pa.tdi.toNat) then false
      else s.level q := by
  have hv : ({ s with life := .validated } : State).level q = s.level q := rfl
  change (optionalPinsState (swdPart w (jtagPart j { s with life := .validated }))).level q = _
  simp only [optionalPinsState, optionalState_level,
    swdPart_pa, jtagPart_pa, swdPart_params, jtagPart_params]
  congr 1; congr 1; congr 1
  cases w <;> cases j <;>
    simp [swdPart, jtagPart, swdPinsState, jtagPinsState, ite_or_eq, hv]

/-! ### What each phase can do -/

/-- Every `SetOut` of the list is on an output-capable pin. -/
abbrev AllCapable (ps : Params) (l : List PinIdx) : Prop := ∀ p ∈ l, pinOutCapable ps p = true

/-- `SetOut` goes on on an output-capable pin and stops on any other (93 U6). -/
theorem setOut_or (p : PinIdx) (b : Bool) (s : State) :
    (pinOutCapable s.params p = true ∧ setOut p b s = .go () (setOutState p b s)) ∨
    (¬ pinOutCapable s.params p = true ∧ ∃ f, setOut p b s = .stop f) := by
  rcases setOut_cases p b s with ⟨hv, h⟩ | ⟨hv, hc, h⟩ | ⟨hc, h⟩
  · exact .inr ⟨fun hc => by simp [pinValid_of_outCapable hc] at hv, _, h⟩
  · exact .inr ⟨by simp [hc], _, h⟩
  · exact .inl ⟨hc, h⟩

/-- `SetupJtagPins` goes on exactly on output-capable pins, and otherwise stops (93 U6). -/
theorem setupJtagPins_cases (s : State) :
    (AllCapable s.params [s.pa.tdi, s.pa.tck, s.pa.tms] ∧
      setupJtagPins s = .go () (jtagPinsState s)) ∨
    (¬ AllCapable s.params [s.pa.tdi, s.pa.tck, s.pa.tms] ∧ ∃ f, setupJtagPins s = .stop f) := by
  rcases setOut_or s.pa.tdi false s with ⟨hc1, h1⟩ | ⟨hc, f, h⟩
  · rcases setOut_or s.pa.tck false (setOutState s.pa.tdi false s) with ⟨hc2, h2⟩ | ⟨hc, f, h⟩
    · rcases setOut_or s.pa.tms true
          (setOutState s.pa.tck false (setOutState s.pa.tdi false s)) with ⟨hc3, h3⟩ | ⟨hc, f, h⟩
      · refine .inl ⟨?_, ?_⟩
        · rw [setOutState_params] at hc2 hc3
          simp only [AllCapable, List.forall_mem_cons]
          exact ⟨hc1, hc2, hc3, by simp⟩
        · simp only [setupJtagPins, h1, h2, andThen_go, setOutState_pa, h3]
          rfl
      · refine .inr ⟨fun hall => hc (hall s.pa.tms (by simp)), f, ?_⟩
        simp only [setupJtagPins, h1, h2, andThen_go, setOutState_pa, h]
    · refine .inr ⟨fun hall => hc (hall s.pa.tck (by simp)), f, ?_⟩
      simp only [setupJtagPins, h1, andThen_go, setOutState_pa, h, andThen_stop]
  · refine .inr ⟨fun hall => hc (hall s.pa.tdi (by simp)), f, ?_⟩
    simp only [setupJtagPins, h, andThen_stop]

/-- An undrivable TDI, which the validator lets pass (R141), stops the first pin access (93 U6). -/
theorem setupJtagPins_of_tdi_incapable {s : State} (hv : pinValid s.params s.pa.tdi = true)
    (hc : pinOutCapable s.params s.pa.tdi = false) :
    setupJtagPins s = .stop (.pinNotOutCapable s.pa.tdi) := by
  simp [setupJtagPins, setOut, pinSetDir_of_incapable hv hc]

/-- `AllocBundles` succeeds, raises with which bundle failed, or stops on an unusable TDO. -/
theorem allocBundles_cases (s : State) :
    (s.allocOutOK = false ∧ allocBundles s = .raised .errResource 1 (failedState s)) ∨
    (s.allocOutOK = true ∧ s.allocInOK = false ∧
      allocBundles s = .raised .errResource 2 (failedState s)) ∨
    (s.allocOutOK = true ∧ s.allocInOK = true ∧ pinValid s.params s.pa.tdo = true ∧
      allocBundles s = .go () (bundlesState s)) ∨
    (s.allocOutOK = true ∧ s.allocInOK = true ∧ pinValid s.params s.pa.tdo = false ∧
      allocBundles s = .stop (.pinNotValid s.pa.tdo)) := by
  cases ho : s.allocOutOK
  · exact .inl ⟨rfl, by simp [allocBundles, ho, failAlloc, failedState]⟩
  · cases hi : s.allocInOK
    · refine .inr (.inl ⟨rfl, rfl, ?_⟩)
      simp [allocBundles, ho, hi, failAlloc, failedState, releaseBundles]
    · refine .inr (.inr ?_)
      cases hv : pinValid s.params s.pa.tdo
      · refine .inr ⟨rfl, rfl, rfl, ?_⟩
        simp [allocBundles, ho, hi, pinSetDir_of_invalid, hv]
      · refine .inl ⟨rfl, rfl, rfl, ?_⟩
        simp [allocBundles, ho, hi, pinSetDir_of_ok, hv, bundlesState, dirState, log]

/-- `SetupSwdPins` goes on exactly on output-capable pins. -/
theorem setupSwdPins_cases (s : State) :
    (AllCapable s.params [s.pa.swdio, s.pa.swclk] ∧
      setupSwdPins s = .go () (swdPinsState s)) ∨
    (¬ AllCapable s.params [s.pa.swdio, s.pa.swclk] ∧ ∃ f, setupSwdPins s = .stop f) := by
  rcases setOut_or s.pa.swdio false s with ⟨hc1, h1⟩ | ⟨hc, f, h⟩
  · rcases setOut_or s.pa.swclk false (setOutState s.pa.swdio false s) with
      ⟨hc2, h2⟩ | ⟨hc, f, h⟩
    · refine .inl ⟨?_, ?_⟩
      · rw [setOutState_params] at hc2
        simp only [AllCapable, List.forall_mem_cons]
        exact ⟨hc1, hc2, by simp⟩
      · simp only [setupSwdPins, h1, andThen_go, setOutState_pa, h2]
        rfl
    · refine .inr ⟨fun hall => hc (hall s.pa.swclk (by simp)), f, ?_⟩
      simp only [setupSwdPins, h1, andThen_go, setOutState_pa, h]
  · refine .inr ⟨fun hall => hc (hall s.pa.swdio (by simp)), f, ?_⟩
    simp only [setupSwdPins, h, andThen_stop]

/-- One optional pin: nothing when it is not assigned, else `SetOut`. -/
theorem optional_cases (p : PinIdx) (b : Bool) (s : State) :
    ((p ≠ noPin → pinOutCapable s.params p = true) ∧
      when (p != noPin) (setOut p b) s = .go () (optionalState p b s)) ∨
    (¬ (p ≠ noPin → pinOutCapable s.params p = true) ∧
      ∃ f, when (p != noPin) (setOut p b) s = .stop f) := by
  by_cases hp : p = noPin
  · exact .inl ⟨fun h => absurd hp h, by simp [hp, optionalState]⟩
  · have hb : (p != noPin) = true := by simpa using hp
    rcases setOut_or p b s with ⟨hc, h⟩ | ⟨hc, f, h⟩
    rotate_left
    · exact .inr ⟨fun hall => hc (hall hp), f, by rw [hb, when_true]; exact h⟩
    · exact .inl ⟨fun _ => hc, by rw [hb, when_true, h]; simp [optionalState, hp]⟩

/-- The assigned optional pins. -/
abbrev assignedOptional (pa : PinRegs) : List PinIdx :=
  [pa.trst, pa.srst, pa.blink].filter (fun p => p != noPin)

theorem allCapable_optional (ps : Params) (pa : PinRegs) :
    AllCapable ps (assignedOptional pa) ↔
      (pa.trst ≠ noPin → pinOutCapable ps pa.trst = true) ∧
      (pa.srst ≠ noPin → pinOutCapable ps pa.srst = true) ∧
      (pa.blink ≠ noPin → pinOutCapable ps pa.blink = true) := by
  simp only [AllCapable, assignedOptional, List.mem_filter, bne_iff_ne, List.mem_cons,
    List.not_mem_nil, or_false]
  constructor
  · intro h
    exact ⟨fun hp => h _ ⟨.inl rfl, hp⟩, fun hp => h _ ⟨.inr (.inl rfl), hp⟩,
      fun hp => h _ ⟨.inr (.inr rfl), hp⟩⟩
  · rintro ⟨h1, h2, h3⟩ p ⟨rfl | rfl | rfl, hp⟩
    · exact h1 hp
    · exact h2 hp
    · exact h3 hp

/-- `SetupOptionalPins` goes on exactly when the assigned optional pins are output-capable. -/
theorem setupOptionalPins_cases (s : State) :
    (AllCapable s.params (assignedOptional s.pa) ∧
      setupOptionalPins s = .go () (optionalPinsState s)) ∨
    (¬ AllCapable s.params (assignedOptional s.pa) ∧ ∃ f, setupOptionalPins s = .stop f) := by
  rw [allCapable_optional]
  rcases optional_cases s.pa.trst (resetLevel s.params.trstAssertLevel false) s with
    ⟨hc1, h1⟩ | ⟨hc, f, h⟩
  · rcases optional_cases s.pa.srst (resetLevel s.params.srstAssertLevel false)
        (optionalState s.pa.trst (resetLevel s.params.trstAssertLevel false) s) with
      ⟨hc2, h2⟩ | ⟨hc, f, h⟩
    · rcases optional_cases s.pa.blink false
          (optionalState s.pa.srst (resetLevel s.params.srstAssertLevel false)
            (optionalState s.pa.trst (resetLevel s.params.trstAssertLevel false) s)) with
        ⟨hc3, h3⟩ | ⟨hc, f, h⟩
      · simp only [optionalState_params] at hc2 hc3
        refine .inl ⟨⟨hc1, hc2, hc3⟩, ?_⟩
        simp only [setupOptionalPins, PinRegs.assigned, PinRegs.get, h1, andThen_go,
          optionalState_pa, optionalState_params, h2, h3]
        rfl
      · simp only [optionalState_params] at hc
        refine .inr ⟨fun hall => hc hall.2.2, f, ?_⟩
        simp only [setupOptionalPins, PinRegs.assigned, PinRegs.get, h1, andThen_go,
          optionalState_pa, optionalState_params, h2, h]
    · simp only [optionalState_params] at hc
      refine .inr ⟨fun hall => hc hall.2.1, f, ?_⟩
      simp only [setupOptionalPins, PinRegs.assigned, PinRegs.get, h1, andThen_go,
        optionalState_pa, optionalState_params, h, andThen_stop]
  · refine .inr ⟨fun hall => hc hall.1, f, ?_⟩
    simp only [setupOptionalPins, PinRegs.assigned, PinRegs.get, h, andThen_stop]

theorem allCapable_driven (j w : Bool) (ps : Params) (pa : PinRegs) :
    AllCapable ps (drivenPins j w pa) ↔
      (j = true → AllCapable ps [pa.tdi, pa.tck, pa.tms]) ∧
      (w = true → AllCapable ps [pa.swdio, pa.swclk]) ∧
      AllCapable ps (assignedOptional pa) := by
  cases j <;> cases w <;> simp [drivenPins, AllCapable, or_imp, forall_and, and_assoc]

/-- Everything the setup phase of INIT can do. -/
theorem setup_cases (j w : Bool) (s : State) (htdo : j = true → pinValid s.params s.pa.tdo = true) :
    (j = true ∧ AllCapable s.params [s.pa.tdi, s.pa.tck, s.pa.tms] ∧
      ((s.allocOutOK = false ∧ setup j w s =
          .raised .errResource 1 (failedState (jtagPinsState { s with life := .validated }))) ∨
       (s.allocOutOK = true ∧ s.allocInOK = false ∧ setup j w s =
          .raised .errResource 2 (failedState (jtagPinsState { s with life := .validated }))))) ∨
    ((j = true → s.allocOutOK = true ∧ s.allocInOK = true) ∧
      AllCapable s.params (drivenPins j w s.pa) ∧ setup j w s = .go 0 (initState j w s)) ∨
    ((j = true → AllCapable s.params [s.pa.tdi, s.pa.tck, s.pa.tms] →
        s.allocOutOK = true ∧ s.allocInOK = true) ∧
      ¬ AllCapable s.params (drivenPins j w s.pa) ∧ ∃ f, setup j w s = .stop f) := by
  rw [allCapable_driven]
  -- the part after the JTAG pins and bundles
  have hrest : ∀ u : State, u.pa = s.pa → u.params = s.params →
      ((w = true → AllCapable s.params [s.pa.swdio, s.pa.swclk]) ∧
        AllCapable s.params (assignedOptional s.pa) ∧
        ((when w setupSwdPins u).andThen fun _ s => (setupOptionalPins s).andThen fun _ s =>
          Run.go (0 : BitVec 32) { s with jtagOn := j, swdOn := w, life := .active }) =
          .go 0 { optionalPinsState (swdPart w u) with
            jtagOn := j, swdOn := w, life := .active }) ∨
      (¬ ((w = true → AllCapable s.params [s.pa.swdio, s.pa.swclk]) ∧
        AllCapable s.params (assignedOptional s.pa)) ∧
        ∃ f, ((when w setupSwdPins u).andThen fun _ s => (setupOptionalPins s).andThen fun _ s =>
          Run.go (0 : BitVec 32) { s with jtagOn := j, swdOn := w, life := .active }) =
          .stop f) := by
    intro u hpa hps
    have hopt : ∀ v : State, v.pa = s.pa → v.params = s.params →
        (AllCapable s.params (assignedOptional s.pa) ∧
          setupOptionalPins v = .go () (optionalPinsState v)) ∨
        (¬ AllCapable s.params (assignedOptional s.pa) ∧ ∃ f, setupOptionalPins v = .stop f) := by
      intro v hvpa hvps
      have := setupOptionalPins_cases v
      rwa [hvpa, hvps] at this
    cases w
    · simp only [when_false, andThen_go, swdPart]
      rcases hopt u hpa hps with ⟨hc, h⟩ | ⟨hc, f, h⟩
      · exact .inl ⟨by simp, hc, by simp [h]⟩
      · exact .inr ⟨fun hall => hc hall.2, f, by simp [h]⟩
    · simp only [when_true, swdPart, if_true, forall_const]
      have hswd := setupSwdPins_cases u
      rw [hpa, hps] at hswd
      rcases hswd with ⟨hc1, h1⟩ | ⟨hc, f, h⟩
      · rcases hopt (swdPinsState u) hpa hps with ⟨hc, h⟩ | ⟨hc, f, h⟩
        · exact .inl ⟨hc1, hc, by simp [h1, h]⟩
        · exact .inr ⟨fun hall => hc hall.2, f, by simp [h1, h]⟩
      · exact .inr ⟨fun hall => hc hall.1, f, by simp [h]⟩
  cases j
  · rcases hrest { s with life := .validated } rfl rfl with ⟨hc1, hc2, h⟩ | ⟨hc, f, h⟩
    · refine .inr (.inl ⟨by simp, ⟨by simp, hc1, hc2⟩, ?_⟩)
      simpa [setup, initState, jtagPart] using h
    · refine .inr (.inr ⟨by simp, fun hall => hc hall.2, f, ?_⟩)
      simpa [setup] using h
  · rcases setupJtagPins_cases { s with life := .validated } with ⟨hc0, h0⟩ | ⟨hc, f, h⟩
    · rcases allocBundles_cases (jtagPinsState { s with life := .validated }) with
        ⟨ho, h⟩ | ⟨ho, hi, h⟩ | ⟨ho, hi, hv, h⟩ | ⟨ho, hi, hv, h⟩
      · exact .inl ⟨rfl, hc0, .inl ⟨ho, by simp [setup, h0, h]⟩⟩
      · exact .inl ⟨rfl, hc0, .inr ⟨ho, hi, by simp [setup, h0, h]⟩⟩
      · rcases hrest (bundlesState (jtagPinsState { s with life := .validated })) rfl rfl with
          ⟨hc1, hc2, h'⟩ | ⟨hc, f, h'⟩
        · refine .inr (.inl ⟨fun _ => ⟨ho, hi⟩, ⟨fun _ => hc0, hc1, hc2⟩, ?_⟩)
          simpa [setup, h0, h, initState, jtagPart] using h'
        · refine .inr (.inr ⟨fun _ _ => ⟨ho, hi⟩, fun hall => hc hall.2, f, ?_⟩)
          simpa [setup, h0, h] using h'
      · have hv' : pinValid s.params s.pa.tdo = false := hv
        simp [htdo rfl] at hv'
    · exact .inr (.inr ⟨fun _ hcap => absurd hcap hc, fun hall => hc (hall.1 rfl), f,
        by simp [setup, h]⟩)

/-- The validator has found TDO usable (R141). -/
theorem tdo_valid_of_canOperate {s : State} (h : canOperateJtag s = true) :
    pinValid s.params s.pa.tdo = true := by
  simp only [canOperateJtag, Bool.and_eq_true] at h
  have h2 := h.2
  split at h2
  · exact h2
  · exact pinValid_of_outCapable h2

/-- The straps are accepted by the validator (R144). -/
abbrev Validated (s : State) : Prop :=
  (s.trJtag = true ∨ s.trSwd = true) ∧
  (s.trJtag = true → canOperateJtag s = true) ∧ (s.trSwd = true → canOperateSwd s = true)

/-- The category of a validation failure (R144). -/
def failedCategory (s : State) : BitVec 32 :=
  if s.trJtag = false ∧ s.trSwd = false then 0
  else if s.trJtag = true ∧ canOperateJtag s = false then 1
  else 2

theorem validate_cases (s : State) :
    (Validated s ∧ validate s.trJtag s.trSwd s = .go () s) ∨
    (¬ Validated s ∧
      validate s.trJtag s.trSwd s = .raised .errValidation (failedCategory s) s) := by
  cases hj : s.trJtag <;> cases hw : s.trSwd <;> cases hcj : canOperateJtag s <;>
    cases hcw : canOperateSwd s <;> simp [Validated, validate, failedCategory, hj, hw, hcj, hcw]

/-- Everything INIT can do (R143). -/
theorem execInit_cases (s : State) :
    (s.life ≠ .unconfigured ∧ execInit s = .next (respond .errUnavailable 0 s)) ∨
    (s.life = .unconfigured ∧ ¬ Validated s ∧
      execInit s = .next (respond .errValidation (failedCategory s) s)) ∨
    (s.life = .unconfigured ∧ Validated s ∧ s.trJtag = true ∧
      AllCapable s.params [s.pa.tdi, s.pa.tck, s.pa.tms] ∧
      ((s.allocOutOK = false ∧ execInit s = .next (respond .errResource 1
          (failedState (jtagPinsState { s with life := .validated })))) ∨
       (s.allocOutOK = true ∧ s.allocInOK = false ∧ execInit s = .next (respond .errResource 2
          (failedState (jtagPinsState { s with life := .validated })))))) ∨
    (s.life = .unconfigured ∧ Validated s ∧
      (s.trJtag = true → s.allocOutOK = true ∧ s.allocInOK = true) ∧
      AllCapable s.params (drivenPins s.trJtag s.trSwd s.pa) ∧
      execInit s = .next (respond .ok 0 (initState s.trJtag s.trSwd s))) ∨
    (s.life = .unconfigured ∧ Validated s ∧
      (s.trJtag = true → AllCapable s.params [s.pa.tdi, s.pa.tck, s.pa.tms] →
        s.allocOutOK = true ∧ s.allocInOK = true) ∧
      ¬ AllCapable s.params (drivenPins s.trJtag s.trSwd s.pa) ∧ ∃ f, execInit s = .fault f) := by
  by_cases hl : s.life = .unconfigured
  · have hreq : require (isUnconfigured s) .errUnavailable s = .go () s := by
      simp [isUnconfigured, hl]
    rcases validate_cases s with ⟨hval, hv⟩ | ⟨hval, hv⟩
    · have hrun : initRun s = setup s.trJtag s.trSwd s := by
        simp only [initRun, hreq, andThen_go, hv]
      have htdo : s.trJtag = true → pinValid s.params s.pa.tdo = true :=
        fun hj => tdo_valid_of_canOperate (hval.2.1 hj)
      rcases setup_cases s.trJtag s.trSwd s htdo with
        ⟨hj, hc, ⟨ho, h⟩ | ⟨ho, hi, h⟩⟩ | ⟨hg, hc, h⟩ | ⟨hg, hc, f, h⟩
      · exact .inr (.inr (.inl ⟨hl, hval, hj, hc, .inl ⟨ho, by simp [execInit, hrun, h]⟩⟩))
      · exact .inr (.inr (.inl ⟨hl, hval, hj, hc, .inr ⟨ho, hi, by simp [execInit, hrun, h]⟩⟩))
      · exact .inr (.inr (.inr (.inl ⟨hl, hval, hg, hc, by simp [execInit, hrun, h]⟩)))
      · exact .inr (.inr (.inr (.inr ⟨hl, hval, hg, hc, f, by simp [execInit, hrun, h]⟩)))
    · refine .inr (.inl ⟨hl, hval, ?_⟩)
      simp only [execInit, initRun, hreq, andThen_go, hv, andThen_raised, answer_raised]
  · refine .inl ⟨hl, ?_⟩
    have hb : isUnconfigured s = false := by simpa [isUnconfigured] using hl
    simp [execInit, initRun, hb]

end Sys2Proof.Machine
end

