-- ==== Sys2Proof/Laws/Exec.lean ====
section
/-! SUPPORT. Everything a command that completes can have done, said once for all 23: later proofs
over exec take `exec_completed` apart and never unfold a meaning. -/

namespace Sys2Proof.Machine

/-- A configuration command runs `Config` on its signals. -/
theorem exec_config {i : Instr} {sigs : List Signal} {c : CfgArgs} (s : State)
    (h : configCommand i = some (sigs, c)) : exec i s = (config sigs c s).answer := by
  cases i <;> simp [configCommand] at h <;> obtain ⟨rfl, rfl⟩ := h <;> rfl

/-- No configuration command has zero signals, so a query is never a set. -/
theorem sigCount_ne_zero {i : Instr} {sigs : List Signal} {c : CfgArgs}
    (h : configCommand i = some (sigs, c)) : sigCount sigs ≠ 0 := by
  cases i <;> simp [configCommand] at h <;> obtain ⟨rfl, rfl⟩ := h <;> decide

/-- Why a command answers an error other than ResourceError, and the data of that answer (30_encoding
R63). -/
def FailsWith (i : Instr) (s : State) (e : Status) (d : BitVec 32) : Prop :=
  match e with
  | .ok | .errResource | .errIllegal => False
  | .errSyntax => d = 0 ∧
      ∃ sigs c, configCommand i = some (sigs, c) ∧ c.argc ≠ 0 ∧ c.argc ≠ sigCount sigs
  | .errValidation => i = .init ∧ s.life = .unconfigured ∧ ¬ Validated s ∧ d = failedCategory s
  | .errUnsupportedSpeed => d = 0 ∧ i = .speedSet 0
  | .errUnavailable => d = 0 ∧ i ≠ .quit ∧ i ≠ .speedGet ∧ ∀ k, i ≠ .speedSet k

/-- Every way a command completes: the state before, and the state after as a named update. -/
inductive Completed : Instr → State → State → Prop
  /-- an error answer, nothing else done -/
  | failed (i : Instr) (s : State) (e : Status) (d : BitVec 32)
      (hwhy : FailsWith i s e d) : Completed i s (respond e d s)
  | query (i : Instr) (sigs : List Signal) (c : CfgArgs) (s : State)
      (h : configCommand i = some (sigs, c)) (h0 : c.argc = 0) :
      Completed i s (respond .ok (packPins (sigs.map s.pa.get)) s)
  | set (i : Instr) (sigs : List Signal) (c : CfgArgs) (s : State)
      (h : configCommand i = some (sigs, c)) (hn : c.argc = sigCount sigs)
      (hl : s.life = .unconfigured) :
      Completed i s (respond .ok (packPins (sigs.map (setPinsState sigs c s).pa.get))
        (setPinsState sigs c s))
  | initFailed (s : State) (d : BitVec 32) (hl : s.life = .unconfigured) (hv : Validated s)
      (hj : s.trJtag = true) (hc : AllCapable s.params [s.pa.tdi, s.pa.tck, s.pa.tms])
      (hg : s.allocOutOK = false ∧ d = 1 ∨
        s.allocOutOK = true ∧ s.allocInOK = false ∧ d = 2) :
      Completed .init s
        (respond .errResource d (failedState (jtagPinsState { s with life := .validated })))
  | initOk (s : State) (hl : s.life = .unconfigured) (hv : Validated s)
      (hg : s.trJtag = true → s.allocOutOK = true ∧ s.allocInOK = true)
      (hc : AllCapable s.params (drivenPins s.trJtag s.trSwd s.pa)) :
      Completed .init s (respond .ok 0 (initState s.trJtag s.trSwd s))
  | quit (s : State) : Completed .quit s (respond .ok 0 (quitState s))
  | speedSet (k : BitVec 32) (s : State) (hk : k ≠ 0) :
      Completed (.speedSet k) s (respond .ok 0 { s with khz := k })
  | speedGet (s : State) : Completed .speedGet s (respond .ok s.khz s)
  | jtagWrite (s : State) (tck tms tdi : Bool) (ha : jtagAvailable s = true)
      (ho : s.obAlloc = true) :
      Completed (.jtagWrite tck tms tdi) s (respond .ok 0
        (applyDelay (bundleState maskJtagWrite (jtagWriteValue tck tms tdi) s)))
  | jtagRead (s : State) (ha : jtagAvailable s = true) (hi : s.ibAlloc = true) :
      Completed .jtagRead s (respond .ok (zext32 (answerSample s s.islot.toNat).1)
        { s with
          env := (answerSample s s.islot.toNat).2
          trace := s.trace ++ [.smp s.islot.toNat (answerSample s s.islot.toNat).1] })
  | jtagReset (s : State) (trst srst : Bool) (ha : jtagAvailable s = true)
      (ho : s.obAlloc = true ∨ (s.pa.assigned .trst = false ∧ s.pa.assigned .srst = false)) :
      Completed (.jtagReset trst srst) s (respond .ok 0 (jtagResetState trst srst s))
  | jtagBlink (s : State) (on : Bool) (ha : jtagBlinkAvailable s = true)
      (ho : s.obAlloc = true) :
      Completed (.jtagBlink on) s (respond .ok 0 (bundleState maskBlink (bitAt 5 on) s))
  | swdDrive (s : State) (isOutput : Bool) (ha : swdAvailable s = true)
      (hv : pinValid s.params s.pa.swdio = true)
      (hc : isOutput = true → pinOutCapable s.params s.pa.swdio = true) :
      Completed (.swdDrive isOutput) s
        (respond .ok 0 (dirState s.pa.swdio (swdDirection isOutput) s))
  | swdWrite (s : State) (swclk swdio : Bool) (ha : swdAvailable s = true)
      (hc : pinValid s.params s.pa.swclk = true) (hd : pinValid s.params s.pa.swdio = true) :
      Completed (.swdWrite swclk swdio) s
        (respond .ok 0 (applyDelay (swdLevelsState (clockGoesFirst s) swclk swdio s)))
  | swdRead (s : State) (ha : swdAvailable s = true)
      (hv : pinValid s.params s.pa.swdio = true) :
      Completed .swdRead s (respond .ok (zext32 (answerSample s s.pa.swdio.toNat).1)
        { s with
          env := (answerSample s s.pa.swdio.toNat).2
          trace := s.trace ++ [.smp s.pa.swdio.toNat (answerSample s s.pa.swdio.toNat).1] })
  | swdBlink (s : State) (on : Bool) (ha : swdBlinkAvailable s = true)
      (hv : pinValid s.params s.pa.blink = true) :
      Completed (.swdBlink on) s (respond .ok 0 (levelState s.pa.blink on s))

/-- The configuration commands. -/
theorem config_completed {i : Instr} {sigs : List Signal} {c : CfgArgs} {s t : State}
    (hcfg : configCommand i = some (sigs, c)) (h : exec i s = .next t) : Completed i s t := by
  rw [exec_config s hcfg, config_answer] at h
  split at h
  · split at h
    · split at h <;> cases h
      · exact .set i sigs c s hcfg ‹_› ‹_›
      · refine .failed i s _ _ ⟨rfl, ?_, ?_, ?_⟩ <;> cases i <;> simp_all [configCommand]
    · rename_i h0 hn
      cases h
      exact .query i sigs c s hcfg (h0.resolve_right hn)
  · rename_i hn
    cases h
    exact .failed i s _ _ ⟨rfl, sigs, c, hcfg, fun h => hn (.inl h), fun h => hn (.inr h)⟩

/-- INIT. -/
theorem init_completed {s t : State} (h : execInit s = .next t) : Completed .init s t := by
  rcases execInit_cases s with ⟨_, h'⟩ | ⟨hl, hv, h'⟩ |
    ⟨hl, hv, hj, hc, ⟨hg, h'⟩ | ⟨hg, hg2, h'⟩⟩ | ⟨hl, hv, hg, hc, h'⟩ | ⟨_, _, _, _, f, h'⟩ <;>
    rw [h'] at h <;> cases h
  · exact .failed _ s _ _ ⟨rfl, by simp⟩
  · exact .failed _ s _ _ ⟨rfl, hl, hv, rfl⟩
  · exact .initFailed s _ hl hv hj hc (.inl ⟨hg, rfl⟩)
  · exact .initFailed s _ hl hv hj hc (.inr ⟨hg, hg2, rfl⟩)
  · exact .initOk s hl hv hg hc

/-- The shape all primitives share: a guard, then a condition, then one effect. -/
theorem next_of_guards {p q : Prop} [Decidable p] [Decidable q] {u v t : State} {f : Fault}
    (h : (if p then if q then Host.Outcome.next u else .fault f else .next v :
      Host.Outcome State Fault Refusal) = .next t) : (p ∧ q ∧ t = u) ∨ t = v := by
  split at h
  · split at h <;> cases h
    exact .inl ⟨‹p›, ‹q›, rfl⟩
  · cases h
    exact .inr rfl

/-- Everything a command that completes can have done. -/
theorem exec_completed {i : Instr} {s t : State} (h : exec i s = .next t) : Completed i s t := by
  have hfail : ∀ i, i ≠ .quit ∧ i ≠ .speedGet ∧ (∀ k, i ≠ .speedSet k) →
      Completed i s (respond .errUnavailable 0 s) := fun i hi => .failed i s _ _ ⟨rfl, hi⟩
  cases i with
  | init => exact init_completed h
  | quit => cases h; exact .quit s
  | speedSet k =>
    have h := (execSpeedSet_eq k s).symm.trans h
    split at h <;> cases h
    · rename_i hk
      exact .failed _ s _ _ ⟨rfl, by rw [hk]⟩
    · exact .speedSet k s ‹_›
  | speedGet => cases h; exact .speedGet s
  | jtagWrite tck tms tdi =>
    rcases next_of_guards ((execJtagWrite_eq tck tms tdi s).symm.trans h) with ⟨ha, ho, rfl⟩ | rfl
    · exact .jtagWrite s tck tms tdi ha ho
    · exact hfail _ (by simp)
  | jtagRead =>
    rcases next_of_guards ((execJtagRead_eq s).symm.trans h) with ⟨ha, hi, rfl⟩ | rfl
    · exact .jtagRead s ha hi
    · exact hfail _ (by simp)
  | jtagReset trst srst =>
    rcases next_of_guards ((execJtagReset_eq trst srst s).symm.trans h) with ⟨ha, ho, rfl⟩ | rfl
    · exact .jtagReset s trst srst ha ho
    · exact hfail _ (by simp)
  | jtagBlink on =>
    rcases next_of_guards ((execJtagBlink_eq on s).symm.trans h) with ⟨ha, ho, rfl⟩ | rfl
    · exact .jtagBlink s on ha ho
    · exact hfail _ (by simp)
  | swdDrive isOutput =>
    have h := (execSwdDrive_eq isOutput s).symm.trans h
    split at h
    · split at h
      · cases h
      · split at h <;> cases h
        rename_i ha hv hc
        exact .swdDrive s isOutput ha (by simpa using hv) (by simpa using hc)
    · cases h
      exact hfail _ (by simp)
  | swdWrite swclk swdio =>
    rcases next_of_guards ((execSwdWrite_eq swclk swdio s).symm.trans h) with ⟨ha, hv, rfl⟩ | rfl
    · exact .swdWrite s swclk swdio ha hv.1 hv.2
    · exact hfail _ (by simp)
  | swdRead =>
    rcases next_of_guards ((execSwdRead_eq s).symm.trans h) with ⟨ha, hv, rfl⟩ | rfl
    · exact .swdRead s ha hv
    · exact hfail _ (by simp)
  | swdBlink on =>
    rcases next_of_guards ((execSwdBlink_eq on s).symm.trans h) with ⟨ha, hv, rfl⟩ | rfl
    · exact .swdBlink s on ha hv
    · exact hfail _ (by simp)
  | jtagPins c => exact config_completed rfl h
  | jtagPinTck c => exact config_completed rfl h
  | jtagPinTms c => exact config_completed rfl h
  | jtagPinTdi c => exact config_completed rfl h
  | jtagPinTdo c => exact config_completed rfl h
  | jtagPinTrst c => exact config_completed rfl h
  | jtagPinSrst c => exact config_completed rfl h
  | jtagPinBlink c => exact config_completed rfl h
  | swdPins c => exact config_completed rfl h
  | swdPinSwclk c => exact config_completed rfl h
  | swdPinSwdio c => exact config_completed rfl h

/-! ### Which fields the longer effects write -/

/-- INIT writes the lifecycle state, the flags, the bundles, directions, latches and TRACE. -/
theorem initState_frame (j w : Bool) (s : State) :
    ∃ d l tr, initState j w s = { s with
      life := .active
      jtagOn := j
      swdOn := w
      obAlloc := j || s.obAlloc
      ibAlloc := j || s.ibAlloc
      oslot := if j then bundlePins s.pa else s.oslot
      islot := if j then s.pa.tdo else s.islot
      dir := d
      lvl := l
      trace := tr } := by
  unfold initState
  cases j <;> cases w <;> (rw [optionalPinsState_frame]; exact ⟨_, _, _, rfl⟩)

theorem lineState_frame (sig : Signal) (mask val : BitVec 6) (s : State) :
    ∃ l tr, lineState sig mask val s = { s with lvl := l, trace := tr } := by
  unfold lineState
  split <;> exact ⟨_, _, rfl⟩

/-- JTAG_RESET writes latches and TRACE. -/
theorem jtagResetState_frame (trst srst : Bool) (s : State) :
    ∃ l tr, jtagResetState trst srst s = { s with lvl := l, trace := tr } := by
  obtain ⟨l, tr, h⟩ := lineState_frame .trst maskTrst
    (bitAt 3 (resetLevel s.params.trstAssertLevel trst)) s
  obtain ⟨l', tr', h'⟩ := lineState_frame .srst maskSrst
    (bitAt 4 (resetLevel s.params.srstAssertLevel srst)) { s with lvl := l, trace := tr }
  exact ⟨l', tr', by rw [jtagResetState, h, h']⟩

/-- SWD_WRITE writes latches and TRACE. -/
theorem swdLevelsState_frame (clockFirst swclk swdio : Bool) (s : State) :
    ∃ l tr, swdLevelsState clockFirst swclk swdio s = { s with lvl := l, trace := tr } := by
  cases clockFirst <;> exact ⟨_, _, rfl⟩

end Sys2Proof.Machine
end

