-- ==== Sys2Proof/Laws/HostPort.lean ====
section
/-! SUPPORT. What HOST's duty OneTransportPerSession (spec 70_reset R213) says of each step, so that no
later proof unfolds it. -/

namespace Sys2Proof.Machine

/-- A command runs while both paths are installed: it uses its own family. -/
theorem transportUsed_of_both {s t : State} {i : Instr} (hf : fetch s = .command i t)
    (hb : BothPathsInstalled t) : transportUsed s = primitiveTransport i := by
  simp [transportUsed, hf, hb.1, hb.2]

/-- While a path is missing the rule asks nothing of HOST. -/
theorem transportUsed_of_missing {s : State} (h : ¬ BothPathsInstalled s) :
    transportUsed s = none := by
  unfold transportUsed fetch
  split
  · rename_i hf
    split at hf
    · cases hf
    · split at hf
      · cases hf
      · split at hf <;> cases hf
        have : (s.jtagOn && s.swdOn) = false := by simpa [BothPathsInstalled] using h
        simp [takeCommand, this]
  · rfl
  · rfl

@[simp] theorem keepsOneTransport_nil (f : Option Transport) (s : State) :
    keepsOneTransport f [] s = true := rfl

/-- Everything the duty says of the first action, when its step answers a next state. -/
theorem keepsOneTransport_cons {f : Option Transport} {a : HostAction} {rest : List HostAction}
    {s t : State} (h : step (hostAct a s) = .next t) :
    keepsOneTransport f (a :: rest) s = true ↔
      (∀ g g', transportUsed (hostAct a s) = some g → f = some g' → g' = g) ∧
      keepsOneTransport
        (if (hostAct a s).resetIn then none else (transportUsed (hostAct a s)).or f) rest t =
        true := by
  simp only [keepsOneTransport, h, Bool.and_eq_true]
  refine and_congr_left fun _ => ?_
  cases transportUsed (hostAct a s) <;> cases f <;> simp

end Sys2Proof.Machine
end

