-- ==== Sys2Proof/Laws/PerInstr.lean ====
section
/-! SUPPORT. Statements made per command, about the command as syntax: the fields of an encoded word
are those of spec 30_encoding R60, and its opcode is its row's (R67). -/

namespace Sys2Proof.Laws

/-- The opcode field of a word put together from its three fields. -/
theorem opcodeField_commandWord (code argc : BitVec 8) (arg : BitVec 32) :
    opcodeField (commandWord code argc arg) = code := by
  apply BitVec.eq_of_getLsbD_eq
  intro i hi
  simp only [opcodeField, commandWord, BitVec.getLsbD_extractLsb', BitVec.getLsbD_append]
  have h1 : ¬ 40 + i < 32 := by omega
  have h2 : ¬ 40 + i - 32 < 8 := by omega
  have h3 : 40 + i - 32 - 8 = i := by omega
  simp [hi, h1, h2, h3]

/-- Its argument-count field. -/
theorem argcField_commandWord (code argc : BitVec 8) (arg : BitVec 32) :
    argcField (commandWord code argc arg) = argc := by
  apply BitVec.eq_of_getLsbD_eq
  intro i hi
  simp only [argcField, commandWord, BitVec.getLsbD_extractLsb', BitVec.getLsbD_append]
  have h1 : ¬ 32 + i < 32 := by omega
  have h2 : 32 + i - 32 < 8 := by omega
  have h3 : 32 + i - 32 = i := by omega
  simp [hi, h1, h3]

/-- Its low 32 bits. -/
theorem argField_commandWord (code argc : BitVec 8) (arg : BitVec 32) :
    argField (commandWord code argc arg) = arg := by
  apply BitVec.eq_of_getLsbD_eq
  intro i hi
  simp only [argField, commandWord, BitVec.getLsbD_extractLsb', BitVec.getLsbD_append,
    Nat.zero_add, hi, decide_true, Bool.true_and, if_true]

/-- Every row's opcode names that row: no two rows share one (R67). -/
theorem ofCode_code (o : Op) : Op.ofCode o.code = some o := by
  cases o <;> decide

/-- The row found under an opcode has that opcode. -/
theorem code_of_ofCode {c : BitVec 8} {o : Op} (h : Op.ofCode c = some o) : o.code = c := by
  have := List.find?_some h
  simpa using this

/-- The encoded word names the command's row, and carries its count and argument. -/
def RowOf.Statement (i : Instr) : Prop :=
  Op.ofCode (opcodeField (encode i)) = some i.op ∧
  argcField (encode i) = i.argc ∧ argField (encode i) = i.arg

/-- The statement for any command: the fields come back. -/
theorem rowOf_encode (i : Instr) : RowOf.Statement i :=
  ⟨by simp only [encode, opcodeField_commandWord, ofCode_code],
   argcField_commandWord _ _ _, argField_commandWord _ _ _⟩

theorem RowOf.jtagPins (c : CfgArgs) : RowOf.Statement (.jtagPins c) := rowOf_encode _

theorem RowOf.jtagPinTck (c : CfgArgs) : RowOf.Statement (.jtagPinTck c) := rowOf_encode _

theorem RowOf.jtagPinTms (c : CfgArgs) : RowOf.Statement (.jtagPinTms c) := rowOf_encode _

theorem RowOf.jtagPinTdi (c : CfgArgs) : RowOf.Statement (.jtagPinTdi c) := rowOf_encode _

theorem RowOf.jtagPinTdo (c : CfgArgs) : RowOf.Statement (.jtagPinTdo c) := rowOf_encode _

theorem RowOf.jtagPinTrst (c : CfgArgs) : RowOf.Statement (.jtagPinTrst c) := rowOf_encode _

theorem RowOf.jtagPinSrst (c : CfgArgs) : RowOf.Statement (.jtagPinSrst c) := rowOf_encode _

theorem RowOf.jtagPinBlink (c : CfgArgs) : RowOf.Statement (.jtagPinBlink c) := rowOf_encode _

theorem RowOf.swdPins (c : CfgArgs) : RowOf.Statement (.swdPins c) := rowOf_encode _

theorem RowOf.swdPinSwclk (c : CfgArgs) : RowOf.Statement (.swdPinSwclk c) := rowOf_encode _

theorem RowOf.swdPinSwdio (c : CfgArgs) : RowOf.Statement (.swdPinSwdio c) := rowOf_encode _

theorem RowOf.init : RowOf.Statement .init := rowOf_encode _

theorem RowOf.quit : RowOf.Statement .quit := rowOf_encode _

theorem RowOf.speedSet (khz : BitVec 32) : RowOf.Statement (.speedSet khz) := rowOf_encode _

theorem RowOf.speedGet : RowOf.Statement .speedGet := rowOf_encode _

theorem RowOf.jtagWrite (tck tms tdi : Bool) : RowOf.Statement (.jtagWrite tck tms tdi) := rowOf_encode _

theorem RowOf.jtagRead : RowOf.Statement .jtagRead := rowOf_encode _

theorem RowOf.jtagReset (trst srst : Bool) : RowOf.Statement (.jtagReset trst srst) := rowOf_encode _

theorem RowOf.jtagBlink (on : Bool) : RowOf.Statement (.jtagBlink on) := rowOf_encode _

theorem RowOf.swdDrive (isOutput : Bool) : RowOf.Statement (.swdDrive isOutput) := rowOf_encode _

theorem RowOf.swdWrite (swclk swdio : Bool) : RowOf.Statement (.swdWrite swclk swdio) := rowOf_encode _

theorem RowOf.swdRead : RowOf.Statement .swdRead := rowOf_encode _

theorem RowOf.swdBlink (on : Bool) : RowOf.Statement (.swdBlink on) := rowOf_encode _

end Sys2Proof.Laws
end

