-- ==== Sys2Proof/Tests/Slice0.lean ====
section
/-! SUPPORT. The model's own tests. Expected values come from spec/95_test_vectors.md and 30_encoding
R72, on the example platform PLAT_EX; each test is one step. Then, for every statement with
hypotheses, concrete values that meet all of them together. -/

namespace Sys2Proof.Tests

open Sys2Proof Sys2Proof.Machine Sys2Proof.Claims

/-! ### Well-formedness -/

theorem test_wf_unknown_opcode : wordWellFormed 0x1B0000000000 = false := by decide
theorem test_wf_zero_word : wordWellFormed 0x000000000000 = false := by decide
theorem test_wf_format_b_argc : wordWellFormed 0x400100000003 = false := by decide
theorem test_wf_format_s_argc : wordWellFormed 0x300100000064 = false := by decide
theorem test_wf_format_n_arg : wordWellFormed 0x410000000001 = false := by decide
theorem test_wf_three_bits : wordWellFormed 0x400000000008 = false := by decide
theorem test_wf_two_bits : wordWellFormed 0x420000000004 = false := by decide
theorem test_wf_one_bit : wordWellFormed 0x430000000002 = false := by decide
theorem test_wf_config_any_low_bits : wordWellFormed 0x10FF08090A0B = true := by decide
theorem test_wf_worked : wordWellFormed 0x400000000007 = true := by decide

/-- The example platform of 00_scope R5, with the write order fixed so that a trace is one list. -/
def platEx : Params where
  npins := 22
  validPins := List.range 22
  outPins := List.range 18
  tdoCheck := .valid
  trstAssertLevel := false
  srstAssertLevel := false
  swdWriteOrder := .clockFirst
  khzReset := 1
  delayCount := 3

theorem test_params_wf : platEx.wf = true := by decide
theorem test_params_no_pins : ({ platEx with npins := 0 } : Params).wf = false := by decide
theorem test_params_many_pins : ({ platEx with npins := 256 } : Params).wf = false := by decide
theorem test_params_khz_zero : ({ platEx with khzReset := 0 } : Params).wf = false := by decide

/-! ### Decoding: one word written out from R60, R61, R65, R66, R67 for every command -/

theorem test_decode_jtag_pins : decode 0x100404050607 = .ok (.jtagPins ⟨4, 4, 5, 6, 7⟩) := by decide
theorem test_decode_jtag_pin_tck : decode 0x1101040A0B0C = .ok (.jtagPinTck ⟨1, 4, 10, 11, 12⟩) := by
  decide
theorem test_decode_jtag_pin_tms : decode 0x120105000000 = .ok (.jtagPinTms ⟨1, 5, 0, 0, 0⟩) := by
  decide
theorem test_decode_jtag_pin_tdi : decode 0x130106000000 = .ok (.jtagPinTdi ⟨1, 6, 0, 0, 0⟩) := by
  decide
theorem test_decode_jtag_pin_tdo : decode 0x140107000000 = .ok (.jtagPinTdo ⟨1, 7, 0, 0, 0⟩) := by
  decide
theorem test_decode_jtag_pin_trst : decode 0x150108000000 = .ok (.jtagPinTrst ⟨1, 8, 0, 0, 0⟩) := by
  decide
theorem test_decode_jtag_pin_srst : decode 0x160109000000 = .ok (.jtagPinSrst ⟨1, 9, 0, 0, 0⟩) := by
  decide
theorem test_decode_jtag_pin_blink : decode 0x17010C000000 = .ok (.jtagPinBlink ⟨1, 12, 0, 0, 0⟩) := by
  decide
theorem test_decode_swd_pins : decode 0x18020A0B0000 = .ok (.swdPins ⟨2, 10, 11, 0, 0⟩) := by decide
theorem test_decode_swd_pin_swclk : decode 0x19010A000000 = .ok (.swdPinSwclk ⟨1, 10, 0, 0, 0⟩) := by
  decide
theorem test_decode_swd_pin_swdio : decode 0x1A010B000000 = .ok (.swdPinSwdio ⟨1, 11, 0, 0, 0⟩) := by
  decide
theorem test_decode_init : decode 0x200000000000 = .ok .init := by decide
theorem test_decode_quit : decode 0x210000000000 = .ok .quit := by decide
theorem test_decode_speed_set : decode 0x3000FFFFFFFF = .ok (.speedSet 0xFFFFFFFF) := by decide
theorem test_decode_speed_get : decode 0x310000000000 = .ok .speedGet := by decide
theorem test_decode_jtag_write_tck :
    decode 0x400000000001 = .ok (.jtagWrite (tck := true) (tms := false) (tdi := false)) := by decide
theorem test_decode_jtag_write_tdi :
    decode 0x400000000002 = .ok (.jtagWrite (tck := false) (tms := false) (tdi := true)) := by decide
theorem test_decode_jtag_write_tms :
    decode 0x400000000004 = .ok (.jtagWrite (tck := false) (tms := true) (tdi := false)) := by decide
theorem test_decode_jtag_read : decode 0x410000000000 = .ok .jtagRead := by decide
theorem test_decode_jtag_reset_trst :
    decode 0x420000000001 = .ok (.jtagReset (trst := true) (srst := false)) := by decide
theorem test_decode_jtag_reset_srst :
    decode 0x420000000002 = .ok (.jtagReset (trst := false) (srst := true)) := by decide
theorem test_decode_jtag_blink : decode 0x430000000001 = .ok (.jtagBlink true) := by decide
theorem test_decode_swd_drive : decode 0x500000000001 = .ok (.swdDrive true) := by decide
theorem test_decode_swd_write_clock :
    decode 0x510000000001 = .ok (.swdWrite (swclk := true) (swdio := false)) := by decide
theorem test_decode_swd_write_data :
    decode 0x510000000002 = .ok (.swdWrite (swclk := false) (swdio := true)) := by decide
theorem test_decode_swd_read : decode 0x520000000000 = .ok .swdRead := by decide
theorem test_decode_swd_blink : decode 0x530000000001 = .ok (.swdBlink true) := by decide

theorem test_encode_jtag_write :
    encode (.jtagWrite (tck := true) (tms := false) (tdi := true)) = 0x400000000003 := by decide
theorem test_encode_swd_pins : encode (.swdPins ⟨2, 10, 11, 0, 0⟩) = 0x18020A0B0000 := by decide

/-- Section 2.6 of the vectors: the opcodes of these words are none of the 23. -/
theorem test_decode_illegal_words :
    ∀ c ∈ ([0x00, 0x0F, 0x1B, 0x1F, 0x22, 0x32, 0x44, 0x54, 0x60, 0xFF] : List (BitVec 8)),
      Op.ofCode c = none := by decide

theorem test_decode_first_free_opcode :
    decode 0x1B0000000000 = .error (.unknownOpcode 0x1B) := by decide

set_option maxRecDepth 4000 in
/-- 233 of the 256 opcodes are illegal (R68). -/
theorem test_decode_unused_opcodes :
    ((List.range 256).filter fun n => (Op.ofCode (BitVec.ofNat 8 n)).isNone).length = 233 := by
  decide

theorem test_decode_reserved_bit : decode 0x400000000008 = .error (.reservedArgBits 8) := by decide
theorem test_decode_argc : decode 0x210100000000 = .error (.argcNotZero 1) := by decide
theorem test_table_word_too_long : decodeTableWord 56 (2 ^ 48 + 0x200000000000) = none := by decide

/-! ### The start states of spec/95 -/

/-- Reset on PLAT_EX, with the bundles granted. -/
def fresh : State :=
  { State.reset with
    params := platEx, khz := 1, delayCnt := 3, allocOutOK := true, allocInOK := true }

/-- JTAG pins 4 5 6 7 assigned and JTAG requested: VL6's start. -/
def beforeJ0 : State :=
  { fresh with pa := { PinRegs.reset with tck := 4, tms := 5, tdi := 6, tdo := 7 }, trJtag := true }

/-- The same with the optional pins 8, 9, 12: VL8's start. -/
def beforeJ1 : State :=
  { beforeJ0 with pa := { beforeJ0.pa with trst := 8, srst := 9, blink := 12 } }

/-- SWD pins 10 11 assigned and SWD requested: VL7's start. -/
def beforeW0 : State :=
  { fresh with pa := { PinRegs.reset with swclk := 10, swdio := 11 }, trSwd := true }

/-- Both transports requested, with distinct pins: P5's start. -/
def beforeBoth : State :=
  { beforeJ0 with pa := { beforeJ0.pa with swclk := 10, swdio := 11 }, trSwd := true }

/-- `J0`. -/
def j0 : State :=
  { beforeJ0 with
    life := .active, jtagOn := true, obAlloc := true, ibAlloc := true
    oslot := #v[4, 6, 5, 0xFF, 0xFF, 0xFF], islot := 7
    dir := [(4, .output), (5, .output), (6, .output), (7, .input)]
    lvl := [(4, false), (5, true), (6, false)] }

/-- `J1`. -/
def j1 : State :=
  { beforeJ1 with
    life := .active, jtagOn := true, obAlloc := true, ibAlloc := true
    oslot := #v[4, 6, 5, 8, 9, 12], islot := 7
    dir := [(4, .output), (5, .output), (6, .output), (7, .input), (8, .output), (9, .output),
      (12, .output)]
    lvl := [(4, false), (5, true), (6, false), (8, true), (9, true), (12, false)] }

/-- `W0`. -/
def w0 : State :=
  { beforeW0 with
    life := .active, swdOn := true
    dir := [(10, .output), (11, .output)]
    lvl := [(10, false), (11, false)] }

/-- `W1`. -/
def w1 : State :=
  { w0 with
    pa := { w0.pa with blink := 12 }
    dir := [(10, .output), (11, .output), (12, .output)]
    lvl := [(10, false), (11, false), (12, false)] }

/-- A session after QUIT. -/
def quitted : State :=
  { beforeJ0 with
    life := .shutdown
    dir := j0.dir
    lvl := j0.lvl }

/-- One step with the word `w` on the port, if it gives a next state. -/
def ask (w : CmdWord) (s : State) : Option State :=
  match step { s with cmd := some w } with
  | .next t => some t
  | .fault _ => none
  | .refused _ => none

/-- The answer and the events of one step. -/
def reply (w : CmdWord) (s : State) : Option (List RspWord × List Event) :=
  (ask w s).map fun t => (t.responses, t.trace)

/-- `OB` after one step, as a number (bit `i` is slot `i`). -/
def bundleAfter (w : CmdWord) (s : State) : Option Nat :=
  (ask w s).map fun t =>
    ((List.finRange 6).map fun i => if t.bundleBit i then 2 ^ i.val else 0).sum

/-! ### Configuration (vectors VC) -/

theorem test_vc1 : reply 0x100000000000 fresh = some ([0x00FFFFFFFF], []) := by decide
theorem test_vc2 : (ask 0x100404050607 fresh).map (fun t => (t.responses, t.pa)) =
    some ([0x0004050607], { PinRegs.reset with tck := 4, tms := 5, tdi := 6, tdo := 7 }) := by decide
theorem test_vc7 : (ask 0x10FF08090A0B beforeJ0).map (fun t => (t.responses, t.pa)) =
    some ([0x0100000000], beforeJ0.pa) := by decide
theorem test_vc8 : reply 0x100008090A0B beforeJ0 = some ([0x0004050607], []) := by decide
theorem test_vc11 : (ask 0x1101040A0B0C fresh).map (fun t => (t.responses, t.pa)) =
    some ([0x0004000000], { PinRegs.reset with tck := 4 }) := by decide
theorem test_vc13 : (ask 0x1101FE000000 fresh).map (fun t => t.pa.tck) = some 254 := by decide
theorem test_vc_tms : (ask 0x120105000000 fresh).map (fun t => (t.responses, t.pa)) =
    some ([0x0005000000], { PinRegs.reset with tms := 5 }) := by decide
theorem test_vc_tdi : (ask 0x130106000000 fresh).map (fun t => (t.responses, t.pa)) =
    some ([0x0006000000], { PinRegs.reset with tdi := 6 }) := by decide
theorem test_vc_tdo : (ask 0x140107000000 fresh).map (fun t => (t.responses, t.pa)) =
    some ([0x0007000000], { PinRegs.reset with tdo := 7 }) := by decide
theorem test_vc_trst : (ask 0x150108000000 fresh).map (fun t => (t.responses, t.pa)) =
    some ([0x0008000000], { PinRegs.reset with trst := 8 }) := by decide
theorem test_vc22 : reply 0x150108000000 quitted = some ([0x0500000000], []) := by decide
theorem test_vc_srst : (ask 0x160109000000 fresh).map (fun t => (t.responses, t.pa)) =
    some ([0x0009000000], { PinRegs.reset with srst := 9 }) := by decide
theorem test_vc_blink : (ask 0x17010C000000 fresh).map (fun t => (t.responses, t.pa)) =
    some ([0x000C000000], { PinRegs.reset with blink := 12 }) := by decide
theorem test_vc15 : (ask 0x18020A0B0000 fresh).map (fun t => (t.responses, t.pa)) =
    some ([0x000A0B0000], { PinRegs.reset with swclk := 10, swdio := 11 }) := by decide
theorem test_vc16 : reply 0x18040A0B0C0D beforeW0 = some ([0x0100000000], []) := by decide
theorem test_vc_swclk : (ask 0x19010A000000 fresh).map (fun t => (t.responses, t.pa)) =
    some ([0x000A000000], { PinRegs.reset with swclk := 10 }) := by decide
theorem test_vc_swdio : (ask 0x1A010B000000 fresh).map (fun t => (t.responses, t.pa)) =
    some ([0x000B000000], { PinRegs.reset with swdio := 11 }) := by decide
theorem test_vc19 : reply 0x100408090A0B j0 = some ([0x0500000000], []) := by decide
theorem test_vc21 : reply 0x100208090000 j0 = some ([0x0100000000], []) := by decide

/-! ### JTAG primitives (vectors S3, S4, VJ) -/

theorem test_vj1 : reply 0x400000000003 j1 =
    some ([0x0000000000], [.drv [(4, true), (5, false), (6, true)], .dly 3]) := by decide
theorem test_vj1_bundle : bundleAfter 0x400000000003 j1 = some 0x1B := by decide
theorem test_vj_tms_only : bundleAfter 0x400000000004 j0 = some 0x04 := by decide
theorem test_vj3 : reply 0x410000000000 { j0 with env := .script [true] } =
    some ([0x0000000001], [.smp 7 true]) := by decide
theorem test_vj4 : reply 0x410000000000 { j0 with env := .script [false] } =
    some ([0x0000000000], [.smp 7 false]) := by decide
theorem test_vj5 : reply 0x420000000003 j0 = some ([0x0000000000], []) := by decide
theorem test_vj6 : reply 0x420000000001 j1 =
    some ([0x0000000000], [.drv [(8, false)], .drv [(9, true)]]) := by decide
theorem test_vj7_bundle : bundleAfter 0x420000000002 j1 = some 0x0C := by decide
theorem test_vj10 : reply 0x420000000003
    { j0 with pa := { j0.pa with srst := 9 }, oslot := #v[4, 6, 5, 0xFF, 9, 0xFF] } =
    some ([0x0000000000], [.drv [(9, false)]]) := by decide
theorem test_vj11 : reply 0x430000000001 j1 = some ([0x0000000000], [.drv [(12, true)]]) := by decide
theorem test_vj11_bundle : bundleAfter 0x430000000001 j1 = some 0x3C := by decide
theorem test_vj13 : reply 0x430000000001 j0 = some ([0x0500000000], []) := by decide
theorem test_vj17 : reply 0x420000000001 w0 = some ([0x0500000000], []) := by decide
theorem test_vj19 : reply 0x400100000003 j0 = some ([0x0600000000], []) := by decide

/-! ### SWD primitives (vectors VW) -/

theorem test_vw2 : reply 0x500000000000 w0 = some ([0x0000000000], [.dir 11 .input]) := by decide
theorem test_vw2_latch : (ask 0x500000000000 w0).map (fun t => (t.direction 11, t.level 11)) =
    some (some .input, false) := by decide
theorem test_vw3 : reply 0x510000000001 w0 =
    some ([0x0000000000], [.drv [(10, true)], .drv [(11, false)], .dly 3]) := by decide
theorem test_vw4 : reply 0x510000000002
    { w0 with params := { platEx with swdWriteOrder := .dataFirst } } =
    some ([0x0000000000], [.drv [(11, true)], .drv [(10, false)], .dly 3]) := by decide
theorem test_vw7 : reply 0x520000000000 { w0 with env := .script [true] } =
    some ([0x0000000001], [.smp 11 true]) := by decide
theorem test_vw11_loopback : reply 0x520000000000 { w0 with env := .loopback } =
    some ([0x0000000000], [.smp 11 false]) := by decide
theorem test_vw12 : reply 0x530000000001 w1 = some ([0x0000000000], [.drv [(12, true)]]) := by decide
theorem test_vw_no_indicator : reply 0x530000000001 w0 = some ([0x0500000000], []) := by decide

/-! ### Speed (S5 and vectors VS) -/

theorem test_vs_set : (ask 0x3000000003E8 fresh).map (fun t => (t.responses, t.khz)) =
    some ([0x0000000000], 1000) := by decide
theorem test_vs_zero : (ask 0x300000000000 { fresh with khz := 1000 }).map
    (fun t => (t.responses, t.khz)) = some ([0x0300000000], 1000) := by decide
theorem test_vs_get : reply 0x310000000000 { fresh with khz := 1000 } =
    some ([0x00000003E8], []) := by decide

/-! ### INIT and QUIT (vectors VL) -/

theorem test_vl1 : reply 0x200000000000 { fresh with trJtag := true } =
    some ([0x0200000001], []) := by decide
theorem test_vl2 : reply 0x200000000000 { beforeJ0 with trJtag := false } =
    some ([0x0200000000], []) := by decide
theorem test_vl4 : reply 0x200000000000 { beforeJ0 with trSwd := true } =
    some ([0x0200000002], []) := by decide

/-- VL6: INIT gives `J0`, with this answer and these events. -/
theorem test_vl6 : ask 0x200000000000 beforeJ0 =
    some { j0 with
      responses := [0x0000000000]
      trace := [.dir 6 .output, .drv [(6, false)], .dir 4 .output, .drv [(4, false)],
        .dir 5 .output, .drv [(5, true)], .dir 7 .input] } := by decide

/-- VL7: INIT gives `W0`. -/
theorem test_vl7 : ask 0x200000000000 beforeW0 =
    some { w0 with
      responses := [0x0000000000]
      trace := [.dir 11 .output, .drv [(11, false)], .dir 10 .output, .drv [(10, false)]] } := by
  decide

/-- VL8: INIT gives `J1`. -/
theorem test_vl8 : (ask 0x200000000000 beforeJ1).map (fun t => { t with trace := [] }) =
    some { j1 with responses := [0x0000000000] } := by decide

/-- VL9: the output bundle is refused. -/
theorem test_vl9 : (ask 0x200000000000 { beforeJ0 with allocOutOK := false }).map
    (fun t => (t.responses, t.life, t.obAlloc)) = some ([0x0400000001], .shutdown, false) := by
  decide
theorem test_vl9_pins : (ask 0x200000000000 { beforeJ0 with allocOutOK := false }).map
    (fun t => (t.dir, t.lvl)) = some ([(4, .output), (5, .output), (6, .output)],
      [(4, false), (5, true), (6, false)]) := by decide
theorem test_vl12 : reply 0x200000000000 j0 = some ([0x0500000000], []) := by decide

/-- VL14: QUIT. -/
theorem test_vl14 : ask 0x210000000000 j0 =
    some { quitted with responses := [0x0000000000] } := by decide
theorem test_vl16 : (ask 0x210000000000 fresh).map (fun t => (t.responses, t.life)) =
    some ([0x0000000000], .shutdown) := by decide

/-- VL20: driving input-only pin 18 is outside the contract. -/
def beforeFault : State := { beforeJ0 with pa := { beforeJ0.pa with tdi := 18 } }

theorem test_vl20 : step { beforeFault with cmd := some 0x200000000000 } =
    .fault (.pinNotOutCapable 18) := rfl

/-- A row's word placed by withFetchWord is the first command after reset. -/
theorem test_first_command : (match step (State.reset.withFetchWord 48 0x210000000000) with
    | .next t => t.life == .shutdown
    | .fault _ => false
    | .refused _ => false) = true := by decide

/-- U7: one bundle write with two bits for one pin leaves the other effects as they are. -/
def shared : State := { j0 with oslot := #v[4, 5, 5, 0xFF, 0xFF, 0xFF] }

theorem test_shared_pin : (ask 0x400000000003 shared).map
    (fun t => (t.level 4, t.responses, t.trace.length)) = some (true, [0x0000000000], 2) := by decide

/-! ### Witnesses: for every statement with hypotheses, values that meet all of them together -/

theorem test_witness_EncodeInvertsDecode : decode 0x10FFFFFFFFFF = .ok (.jtagPins ⟨255, 255, 255, 255, 255⟩) := by
  decide

theorem test_witness_DecoderAgreesWithOpcodeTable :
    (∃ i, decode 0x510000000003 = .ok i) ∧ (∃ why, decode 0x510000000004 = .error why) :=
  ⟨⟨_, rfl⟩, ⟨_, rfl⟩⟩

/-- One word for each of the six commands with bit operands, every bit set. -/
theorem test_witness_BitOperandsHaveTheirPlaces :
    decode 0x400000000007 = .ok (.jtagWrite true true true) ∧
    decode 0x420000000003 = .ok (.jtagReset true true) ∧
    decode 0x430000000001 = .ok (.jtagBlink true) ∧
    decode 0x500000000001 = .ok (.swdDrive true) ∧
    decode 0x510000000003 = .ok (.swdWrite true true) ∧
    decode 0x530000000001 = .ok (.swdBlink true) := by decide

theorem test_witness_SerialisedCommandsDecode :
    ([] : List (BitVec 8)).length ≠ 6 ∧ (List.replicate 7 (0 : BitVec 8)).length ≠ 6 := by decide

theorem test_witness_ResponseWordFields : Status.ok.code = Status.ok.code := rfl

theorem test_witness_StepRunsTheDecodedCommand :
    ({ j0 with cmd := some 0x400000000005 } : State).resetIn = false ∧
    ({ j0 with cmd := some 0x400000000005 } : State).cmd = some 0x400000000005 ∧
    decode 0x400000000005 = .ok (.jtagWrite true true false) := by decide

theorem test_witness_PlacedWordIsRunNext :
    0x530000000001 < 2 ^ 48 ∧ decodeTableWord 48 0x530000000001 = some (.swdBlink true) := by decide

theorem test_witness_WordOfNoRowAnswersIllegal :
    ({ j0 with cmd := some 0x400000000008 } : State).resetIn = false ∧
    ({ j0 with cmd := some 0x400000000008 } : State).cmd = some 0x400000000008 ∧
    ∀ r ∈ opcodeTable, (0x400000000008 : CmdWord) &&& r.mask ≠ r.bits := by decide

theorem test_witness_StepWaitsForACommand : j0.resetIn = false ∧ j0.cmd = none := by decide

/-- Also the hypothesis of NoPinIsTouchedBeforeInit's third clause. -/
theorem test_witness_ResetGivesTheTableOfValues :
    ({ j1 with resetIn := true } : State).resetIn = true := rfl

/-- Both sides of the equivalence: a step that stays, and a reset. -/
theorem test_witness_OnlyResetLeavesShutdown :
    (∃ t, step { quitted with cmd := some 0x200000000000 } = .next t ∧ t.life = .shutdown) ∧
    ∃ t, step { quitted with resetIn := true } = .next t ∧ t.life = .unconfigured :=
  ⟨⟨_, rfl, rfl⟩, ⟨_, rfl, rfl⟩⟩

theorem test_witness_LifeMovesForwardOnly :
    (∃ t, exec .init beforeJ0 = .next t ∧ t.life = .active) ∧
    (∃ t, exec .init { beforeJ0 with allocInOK := false } = .next t ∧ t.life = .shutdown) ∧
    ∃ t, exec .quit j0 = .next t ∧ t.life = .shutdown :=
  ⟨⟨_, rfl, rfl⟩, ⟨_, rfl, rfl⟩, ⟨_, rfl, rfl⟩⟩

/-- Also the hypothesis of ConfigBeforeInit. -/
theorem test_witness_ConfigSetsWriteTheirRegisters : fresh.life = .unconfigured := rfl

theorem test_witness_ConfigQueriesAnswerTheRegisters :
    configCommand (.jtagPins ⟨0, 8, 9, 10, 11⟩) =
      some ([.tck, .tms, .tdi, .tdo], ⟨0, 8, 9, 10, 11⟩) ∧
    configCommand (.swdPinSwdio ⟨0, 0, 0, 0, 0⟩) = some ([.swdio], ⟨0, 0, 0, 0, 0⟩) := by decide

/-- First clause: the counts beside 0, 1, 2 and 4, and 255. -/
theorem test_witness_WrongArgumentCountIsASyntaxError :
    (∀ n ∈ ([1, 3, 5, 255] : List (BitVec 8)), n ≠ 0 ∧ n ≠ setCount [.tck, .tms, .tdi, .tdo]) ∧
    (∀ n ∈ ([2, 255] : List (BitVec 8)), n ≠ 0 ∧ n ≠ setCount [.tck]) ∧
    (∀ n ∈ ([1, 3] : List (BitVec 8)), n ≠ 0 ∧ n ≠ setCount [.swclk, .swdio]) ∧
    ∃ t, exec (.jtagPins ⟨3, 0, 0, 0, 0⟩) j0 = .next t ∧ Answers j0 t 0x0100000000 ∧
      statusByte 0x0100000000 = 0x01 :=
  ⟨by decide, by decide, by decide, ⟨_, rfl, rfl, by decide⟩⟩

theorem test_witness_LateConfigurationSetsAreRejected :
    configCommand (.jtagPins ⟨4, 8, 9, 10, 11⟩) =
      some ([.tck, .tms, .tdi, .tdo], ⟨4, 8, 9, 10, 11⟩) ∧
    (4 : BitVec 8) = setCount [.tck, .tms, .tdi, .tdo] ∧ j0.life ≠ .unconfigured := by decide

theorem test_witness_ConfigCommandsAreIdempotent :
    configCommand (.swdPins ⟨2, 10, 11, 0, 0⟩) = some ([.swclk, .swdio], ⟨2, 10, 11, 0, 0⟩) := by
  decide

/-- Also the hypotheses of ConfigCommandsTouchNothingElse. -/
theorem test_witness_PinRegistersChangeOnlyBeforeInit :
    ∃ t, exec (.jtagPinTck ⟨1, 4, 0, 0, 0⟩) fresh = .next t ∧ t.pa ≠ fresh.pa ∧
      configCommand (.jtagPinTck ⟨1, 4, 0, 0, 0⟩) = some ([.tck], ⟨1, 4, 0, 0, 0⟩) :=
  ⟨_, rfl, by decide, rfl⟩

theorem test_witness_SpeedSetRecordsOrRejects :
    (1 : BitVec 32) ≠ 0 ∧ (0xFFFFFFFF : BitVec 32) ≠ 0 := by decide

theorem test_witness_NominalSpeedMovesNoPin :
    (∃ t, exec (.speedSet 2000) j0 = .next t) ∧
    (∃ t, exec (.jtagWrite true true false) j0 = .next t) ∧
    exec .init beforeFault = .fault (.pinNotOutCapable 18) :=
  ⟨⟨_, rfl⟩, ⟨_, rfl⟩, rfl⟩

/-- Both transports on shared pins: SWCLK on TCK's pin, SWDIO on TMS's (R150's example). -/
def beforeShared : State :=
  { beforeBoth with pa := { beforeBoth.pa with swclk := 4, swdio := 5 } }

/-- Both transports, SWDIO on TDO's pin, and TRST on TMS's. -/
def beforeSharedTdo : State :=
  { beforeBoth with pa := { beforeBoth.pa with swdio := 7, trst := 5 } }

/-- R150: the shared TMS pin ends low, not high; a TDO pin shared with SWDIO ends an output. -/
theorem test_init_shared_pins :
    ((ask 0x200000000000 beforeShared).map fun t => (t.level 5, t.direction 5)) =
      some (false, some .output) ∧
    ((ask 0x200000000000 beforeSharedTdo).map fun t => (t.level 5, t.direction 7)) =
      some (true, some .output) := by decide

/-- A JTAG session, an SWD session, both transports, the optional lines, and shared pins. -/
theorem test_witness_InitCompletesWithTheseEvents :
    ∀ s ∈ [beforeJ0, beforeJ1, beforeW0, beforeBoth, beforeShared, beforeSharedTdo],
      s.life = .unconfigured ∧ StrapsValid s ∧
      BundlesGranted s ∧ DrivenPinsOutCapable s.trJtag s.trSwd s := by
  unfold StrapsValid BundlesGranted
  decide

/-- Its clause on both transports: TMS on SWDIO's pin, no optional signal there; TDO on SWDIO's pin. -/
theorem test_witness_InitCompletesWithTheseEvents_shared :
    (∀ s ∈ [beforeShared, beforeSharedTdo], s.trJtag = true ∧ s.trSwd = true) ∧
    beforeShared.pa.tms = beforeShared.pa.swdio ∧
    beforeShared.pa.tms ∉ [beforeShared.pa.trst, beforeShared.pa.srst, beforeShared.pa.blink] ∧
    beforeSharedTdo.pa.tdo ∈ [beforeSharedTdo.pa.swclk, beforeSharedTdo.pa.swdio] := by decide

/-- With all three optional signals, with none, and with both transports. -/
theorem test_witness_InitReachesTheEndStateTable :
    (∀ s ∈ [beforeJ1, beforeJ0, beforeBoth], s.life = .unconfigured ∧ StrapsValid s ∧
      BundlesGranted s ∧ DrivenPinsOutCapable s.trJtag s.trSwd s ∧
      PinsDistinct s.trJtag s.trSwd s) ∧
    (beforeJ1.pa.trst ≠ noPin ∧ beforeJ1.pa.srst ≠ noPin ∧ beforeJ1.pa.blink ≠ noPin) ∧
    (beforeJ0.pa.trst = noPin ∧ beforeJ0.pa.srst = noPin ∧ beforeJ0.pa.blink = noPin) ∧
    beforeJ0.params.trstAssertLevel = false ∧ beforeJ0.params.srstAssertLevel = false := by
  unfold StrapsValid BundlesGranted
  decide

/-- No transport; JTAG pins failing; SWD pins failing alone and beside good JTAG pins. -/
theorem test_witness_ValidationFailureTouchesNothing :
    (fresh.life = .unconfigured ∧ fresh.trJtag = false ∧ fresh.trSwd = false) ∧
    canOperateJtag { beforeJ0 with pa := { beforeJ0.pa with tdo := 22 } } = false ∧
    canOperateSwd { beforeW0 with pa := { beforeW0.pa with swdio := 22 } } = false ∧
    (canOperateJtag { beforeJ0 with trSwd := true } = true ∧
      canOperateSwd { beforeJ0 with trSwd := true } = false) ∧
    ∃ t, exec .init fresh = .next t ∧ Answers fresh t 0x0200000000 ∧
      statusByte 0x0200000000 = 0x02 :=
  ⟨by decide, by decide, by decide, by decide, ⟨_, rfl, rfl, by decide⟩⟩

/-- TDO on input-only pin 18 under the two values of TDO_CHECK; the last pins of each kind. -/
theorem test_witness_JtagValidatorChecksEachSignal :
    canOperateJtag { beforeJ0 with pa := { beforeJ0.pa with tdo := 18 } } = true ∧
    canOperateJtag { beforeJ0 with
      pa := { beforeJ0.pa with tdo := 18 }, params := { platEx with tdoCheck := .outCapable } } =
      false ∧
    canOperateJtag { beforeJ0 with pa := { beforeJ0.pa with tck := 17, tms := 17, tdi := 21 } } =
      true ∧
    canOperateJtag { beforeJ0 with pa := { beforeJ0.pa with tck := 18 } } = false ∧
    canOperateSwd { beforeW0 with pa := { beforeW0.pa with swclk := 21, swdio := 21 } } = true := by
  decide

/-- Both clauses, the output bundle refused and the input bundle refused. -/
theorem test_witness_BundleRefusalEndsInShutdown :
    (∀ s ∈ [{ beforeJ0 with allocOutOK := false }, { beforeJ0 with allocInOK := false }],
      s.life = .unconfigured ∧ StrapsValid s ∧ s.trJtag = true ∧
      (∀ p ∈ [s.pa.tdi, s.pa.tck, s.pa.tms], pinOutCapable s.params p = true) ∧
      (s.allocOutOK = false ∨ s.allocInOK = false)) ∧
    ∃ t, exec .init { beforeJ0 with allocInOK := false } = .next t ∧
      Answers { beforeJ0 with allocInOK := false } t 0x0400000002 ∧
      statusByte 0x0400000002 = 0x04 :=
  ⟨by unfold StrapsValid; decide, ⟨_, rfl, rfl, by decide⟩⟩

/-- With the bundles granted, drivable and not (TDI on pin 18, SWDIO on 18); with one refused, the JTAG
pins drivable, then an optional pin that is not, then TDI that is not. -/
theorem test_witness_InitFaultsExactlyOnUndrivablePins :
    (∀ s ∈ [beforeJ0, beforeFault, { beforeW0 with pa := { beforeW0.pa with swdio := 18 } },
        { beforeJ0 with allocInOK := false },
        { beforeJ0 with allocOutOK := false, pa := { beforeJ0.pa with trst := 18 } },
        { beforeFault with allocOutOK := false }],
      s.life = .unconfigured ∧ StrapsValid s) ∧
    (BundlesGranted beforeJ0 ∧ DrivenPinsOutCapable true false beforeJ0) ∧
    (BundlesGranted beforeFault ∧ ¬ DrivenPinsOutCapable true false beforeFault) ∧
    (¬ BundlesGranted { beforeJ0 with allocInOK := false } ∧
      ∀ p ∈ [beforeJ0.pa.tdi, beforeJ0.pa.tck, beforeJ0.pa.tms], pinOutCapable platEx p = true) ∧
    (¬ BundlesGranted { beforeFault with allocOutOK := false } ∧
      pinOutCapable platEx beforeFault.pa.tdi = false) := by
  unfold StrapsValid BundlesGranted
  decide

/-- An undrivable TDI faults before a refused bundle is asked for; a refused bundle answers before an
undrivable TRST is driven. -/
theorem test_init_order_of_stops :
    step { beforeFault with allocOutOK := false, cmd := some 0x200000000000 } =
      .fault (.pinNotOutCapable 18) ∧
    (ask 0x200000000000 { beforeJ0 with
      allocOutOK := false, pa := { beforeJ0.pa with trst := 18 } }).map (·.responses) =
      some [0x0400000001] := ⟨rfl, by decide⟩

theorem test_witness_InitRunsOncePerSession :
    ∀ s ∈ [j0, quitted, { fresh with life := .validated }], s.life ≠ .unconfigured := by decide

theorem test_witness_BundlesChangeOnlyByInitAndQuit :
    (∃ t, exec .init beforeJ0 = .next t ∧ t.obAlloc ≠ beforeJ0.obAlloc) ∧
    ∃ t, exec .quit j0 = .next t ∧ t.islot ≠ j0.islot :=
  ⟨⟨_, rfl, by decide⟩, ⟨_, rfl, by decide⟩⟩

/-- First clause at pins 17 (driven) and 21 (input); second at 18 (driven), 22 and NONE. -/
theorem test_witness_PinSetDirKeepsTheLatch :
    (pinValid platEx 17 = true ∧ pinOutCapable platEx 17 = true) ∧
    (pinValid platEx 21 = true ∧ Drive.input ≠ .output) ∧
    pinOutCapable platEx 18 = false ∧ pinValid platEx 22 = false ∧
    pinValid platEx 255 = false := by decide

theorem test_witness_PinSetLevelWritesTheLatch :
    pinValid platEx 0 = true ∧ pinValid platEx 21 = true := by decide

/-- A driven pin, an undriven one and an untouched one; the last output-capable pin. -/
theorem test_witness_PadShowsTheLatchWhileDriven :
    j0.direction (4 : PinIdx).toNat = some .output ∧
    j0.direction (7 : PinIdx).toNat ≠ some .output ∧
    j0.direction (21 : PinIdx).toNat ≠ some .output ∧
    pinOutCapable platEx 17 = true ∧ pinValid platEx 21 = true := by decide

/-- VW10: switching SWDIO to output shows the level its latch was given while it was an input. -/
theorem test_vw10 : (ask 0x500000000001
    { w0 with dir := [(10, .output), (11, .input)], lvl := [(10, true), (11, true)] }).map
    (fun t => (t.trace, t.pad 11)) = some ([.dir 11 .output], true) := by decide

/-- Also the hypotheses of the JTAG primitives' statements: with and without the optional slots, and
with two slots on one pin (U7). -/
theorem test_witness_JtagWriteMovesThreeLinesAtOnce :
    ∀ s ∈ [j0, j1, shared], s.life = .active ∧ s.jtagOn = true ∧ s.obAlloc = true := by decide

/-- A JTAG session whose TDO pin is driven: SWDIO shares it. -/
def drivenTdo : State :=
  { j0 with
    pa := beforeSharedTdo.pa, swdOn := true
    dir := [(4, .output), (5, .output), (6, .output), (7, .output), (10, .output)] }

/-- The three kinds of environment, and an input slot whose pin is driven. -/
theorem test_witness_JtagReadSamplesTheInputSlot :
    (∀ s ∈ [j0, { j0 with env := .loopback }, { j0 with env := .script [true] }, drivenTdo],
      s.life = .active ∧ s.jtagOn = true ∧ s.ibAlloc = true) ∧
    drivenTdo.direction drivenTdo.islot.toNat = some .output := by decide

theorem test_witness_BundleWriteUpdatesSelectedSlotsAtOnce :
    j1.obAlloc = true ∧ shared.obAlloc = true := by decide

/-- No line, one line, both. -/
theorem test_witness_JtagResetDrivesEachConfiguredLine :
    ∀ s ∈ [j0, j1], s.life = .active ∧ s.jtagOn = true ∧ s.obAlloc = true := by decide

theorem test_witness_JtagBlinkDrivesTheIndicator :
    j1.life = .active ∧ j1.jtagOn = true ∧ j1.pa.blink ≠ noPin ∧ j1.obAlloc = true := by decide

theorem test_witness_JtagPrimitivesNeedTheirPath :
    (∀ s ∈ [fresh, quitted, w0], ¬ (s.life = .active ∧ s.jtagOn = true)) ∧
    ¬ (j0.life = .active ∧ j0.jtagOn = true ∧ j0.pa.blink ≠ noPin) := by decide

theorem test_witness_SwdDriveSwitchesSwdio :
    w0.life = .active ∧ w0.swdOn = true ∧ pinValid w0.params w0.pa.swdio = true ∧
      pinOutCapable w0.params w0.pa.swdio = true := by decide

/-- The three values of SWD_WRITE_ORDER, distinct pins and one shared pin. -/
theorem test_witness_SwdWriteSetsBothLatches :
    ∀ s ∈ [w0, { w0 with params := { platEx with swdWriteOrder := .dataFirst } },
        { w0 with params := { platEx with swdWriteOrder := .either } },
        { w0 with pa := { w0.pa with swdio := 10 } }],
      s.life = .active ∧ s.swdOn = true ∧ pinValid s.params s.pa.swclk = true ∧
        pinValid s.params s.pa.swdio = true := by decide

theorem test_witness_SwdReadSamplesSwdio :
    ∀ s ∈ [w0, { w0 with env := .loopback }, { w0 with env := .script [true] }],
      s.life = .active ∧ s.swdOn = true ∧ pinValid s.params s.pa.swdio = true := by decide

theorem test_witness_SwdBlinkDrivesTheIndicator :
    w1.life = .active ∧ w1.swdOn = true ∧ w1.pa.blink ≠ noPin ∧
      pinValid w1.params w1.pa.blink = true := by decide

theorem test_witness_SwdPrimitivesNeedTheirPath :
    (∀ s ∈ [fresh, quitted, j0], ¬ (s.life = .active ∧ s.swdOn = true)) ∧
    ¬ (w0.life = .active ∧ w0.swdOn = true ∧ w0.pa.blink ≠ noPin) := by decide

theorem test_witness_DirectionsChangeOnlyByInitAndSwdDrive :
    (∃ t, exec .init beforeJ0 = .next t ∧ t.direction 7 ≠ beforeJ0.direction 7) ∧
    (∃ t, exec (.swdDrive false) w0 = .next t ∧ t.direction 11 ≠ w0.direction 11) ∧
    beforeW0.life = .unconfigured ∧
    ∃ t, exec .init beforeW0 = .next t ∧ t.life = .active ∧ t.swdOn = true :=
  ⟨⟨_, rfl, by decide⟩, ⟨_, rfl, by decide⟩, rfl, ⟨_, rfl, by decide, by decide⟩⟩

theorem test_witness_LatchesChangeOnlyByTheirWriters :
    (∃ t, exec (.jtagWrite true true false) j0 = .next t ∧ t.level 4 ≠ j0.level 4) ∧
    (∃ t, exec (.jtagReset false true) j1 = .next t ∧ t.level 9 ≠ j1.level 9) ∧
    (∃ t, exec (.jtagBlink true) j1 = .next t ∧ t.level 12 ≠ j1.level 12) ∧
    (∃ t, exec (.swdWrite true false) w0 = .next t ∧ t.level 10 ≠ w0.level 10) ∧
    ∃ t, exec (.swdBlink true) w1 = .next t ∧ t.level 12 ≠ w1.level 12 :=
  ⟨⟨_, rfl, by decide⟩, ⟨_, rfl, by decide⟩, ⟨_, rfl, by decide⟩, ⟨_, rfl, by decide⟩,
    ⟨_, rfl, by decide⟩⟩

theorem test_witness_RegistersChangeOnlyByTheirWriters :
    (∃ t, exec .init beforeW0 = .next t ∧ t.swdOn ≠ beforeW0.swdOn) ∧
    (∃ t, exec (.speedSet 5) j0 = .next t ∧ t.khz ≠ j0.khz) ∧
    ∃ t, exec .jtagRead { j0 with env := .script [true] } = .next t ∧ t.env ≠ .script [true] :=
  ⟨⟨_, rfl, by decide⟩, ⟨_, rfl, by decide⟩, ⟨_, rfl, by decide⟩⟩

theorem test_witness_EveryCommandAnswersOnce : ∃ t, exec .swdRead w0 = .next t := ⟨_, rfl⟩

theorem test_witness_ErrorsLeaveTheStateUnchanged :
    ∃ t, exec .swdRead j0 = .next t ∧ Answers j0 t 0x0500000000 ∧
      statusByte 0x0500000000 ≠ 0x00 ∧ statusByte 0x0500000000 ≠ 0x04 :=
  ⟨_, rfl, rfl, by decide, by decide⟩

theorem test_witness_NoPinIsTouchedBeforeInit :
    fresh.life = .unconfigured ∧ Instr.quit ≠ .init ∧ ∃ t, exec .quit fresh = .next t :=
  ⟨by decide, by decide, ⟨_, rfl⟩⟩

theorem test_witness_DelayFollowsTheTwoWritesOnly :
    ∃ t, exec (.jtagWrite true true false) j0 = .next t ∧ Answers j0 t 0x0000000000 :=
  ⟨_, rfl, rfl⟩

/-! ### Two transports in one session -/

/-- Both paths installed, on distinct pins and on shared ones. -/
def dual : State := { j0 with pa := beforeBoth.pa, swdOn := true }
def dualShared : State := { j0 with pa := beforeShared.pa, swdOn := true }

/-- R213's example: an SWD_WRITE on a pin that is also bundle slot 0 moves TCK. -/
theorem test_swd_write_moves_tck :
    (ask 0x510000000001 dualShared).map (fun t => (t.bundleBit 0, t.bundleBit 2)) =
      some (true, false) := by decide

/-- First clause: SWCLK is slot 0's pin and SWDIO slot 2's, or neither; the slots of a JTAG_WRITE are on
three pins. Second: a HOST that keeps to JTAG, and one that keeps to SWD. -/
theorem test_witness_OneTransportKeepsTheLinesApart :
    (∀ s ∈ [dual, dualShared], s.life = .active ∧ BothPathsInstalled s ∧ s.obAlloc = true ∧
      pinValid s.params s.pa.swclk = true ∧ pinValid s.params s.pa.swdio = true ∧
      s.pa.swclk ≠ s.pa.swdio ∧ [s.oslot[0], s.oslot[1], s.oslot[2]].Nodup ∧
      s.pa.swclk ≠ noPin ∧ s.pa.swdio ≠ noPin ∧ s.resetIn = false) ∧
    (dualShared.oslot[0] = dualShared.pa.swclk ∧ dualShared.oslot[2] = dualShared.pa.swdio ∧
      dual.pa.swclk ∉ [dual.oslot[0], dual.oslot[1], dual.oslot[2]]) ∧
    (OneTransportPerSession [.present 0x400000000001, .present 0x420000000001] dual ∧
      ∃ t, session [.present 0x400000000001, .present 0x420000000001] dual = .next t) ∧
    OneTransportPerSession [.present 0x500000000000, .present 0x510000000001] dual ∧
      ∃ t, session [.present 0x500000000000, .present 0x510000000001] dual = .next t :=
  ⟨by decide, by decide, ⟨by decide, ⟨_, rfl⟩⟩, by decide, ⟨_, rfl⟩⟩

/-- The duty is broken by the second family in one session, not by a session of the other family after
a reset, nor where one path only is installed. -/
theorem test_one_transport :
    ¬ OneTransportPerSession [.present 0x400000000001, .present 0x510000000001] dual ∧
    OneTransportPerSession [.present 0x400000000001, .assertReset, .present 0x510000000001] dual ∧
    OneTransportPerSession [.present 0x400000000001, .present 0x510000000001] j0 := by decide

/-! ### Witnesses of the invariant -/

/-- Reset on PLAT_EX meets the invariant. -/
theorem test_fresh_inv : SessionInv fresh :=
  ⟨⟨by decide, by decide, by decide, by decide, by decide, by decide, by decide, by decide,
    by decide, by decide, by decide⟩,
   ⟨by decide, by decide, by simp [fresh, State.reset], by simp [fresh, State.reset], by decide,
    by decide, by decide, by decide, by decide⟩⟩

/-- A pin of PLAT_EX exists. -/
theorem pinExists_platEx (p : Nat) (h : p < 22) : PinExists platEx p := by
  refine ⟨BitVec.ofNat 8 p, ?_, ?_⟩ <;> interval_cases p <;> decide

/-- So does a JTAG session with every optional pin. -/
theorem test_j1_inv : SessionInv j1 :=
  ⟨⟨by decide, by decide, by decide, by decide, by decide, by decide, by decide, by decide,
    by decide, by decide, by decide⟩,
   ⟨by decide, by decide,
    fun e he => pinExists_platEx e.1 ((by decide : ∀ e ∈ j1.dir, e.1 < 22) e he),
    fun e he => pinExists_platEx e.1 ((by decide : ∀ e ∈ j1.lvl, e.1 < 22) e he), by decide,
    by decide, by decide, by decide, by decide⟩⟩

theorem test_witness_EveryStepKeepsTheInvariant :
    SessionInv j1 ∧ ∃ t, step j1 = .next t := ⟨test_j1_inv, ⟨_, rfl⟩⟩

theorem test_witness_SessionsKeepTheInvariant :
    SessionInv j1 ∧ ∃ t, session [.present 0x430000000001] j1 = .next t :=
  ⟨test_j1_inv, ⟨_, rfl⟩⟩

/-- The step that can fault, in a state that meets the invariant. -/
theorem test_witness_OnlyInitOnUndrivablePinsFaults :
    SessionInv { beforeFault with cmd := some 0x200000000000 } ∧
    step { beforeFault with cmd := some 0x200000000000 } = .fault (.pinNotOutCapable 18) :=
  ⟨⟨⟨by decide, by decide, by decide, by decide, by decide, by decide, by decide, by decide,
      by decide, by decide, by decide⟩,
    ⟨by decide, by decide, by simp [beforeFault, beforeJ0, fresh, State.reset],
      by simp [beforeFault, beforeJ0, fresh, State.reset], by decide, by decide, by decide,
      by decide, by decide⟩⟩, rfl⟩

end Sys2Proof.Tests
end

section
/-! SUPPORT. What one step does, by what it finds at the reset input and on the command port (spec
00_scope R8, 70_reset R200, R202, 30_encoding R68), so that no later proof unfolds step or fetch; then
how a property passes along a session. -/

namespace Sys2Proof.Machine

/-! ### One step -/

theorem step_of_reset {s : State} (hr : s.resetIn = true) : step s = .next (applyReset s) := by
  simp [step, fetch, hr]

theorem step_of_empty {s : State} (hr : s.resetIn = false) (hc : s.cmd = none) :
    step s = .next s := by
  simp [step, fetch, hr, hc]

theorem step_of_command {s : State} {w : CmdWord} {i : Instr} (hr : s.resetIn = false)
    (hc : s.cmd = some w) (hd : decode w = .ok i) : step s = exec i (takeCommand s) := by
  simp [step, fetch, hr, hc, hd]

theorem step_of_illegal {s : State} {w : CmdWord} {why : Illegal} (hr : s.resetIn = false)
    (hc : s.cmd = some w) (hd : decode w = .error why) :
    step s = .next (respond .errIllegal 0 (takeCommand s)) := by
  simp [step, fetch, hr, hc, hd, illegalRun]

/-- Every way a step goes on. -/
inductive Stepped (s : State) : State → Prop
  | reset (hr : s.resetIn = true) : Stepped s (applyReset s)
  | waits (hr : s.resetIn = false) (hc : s.cmd = none) : Stepped s s
  | command {t : State} (w : CmdWord) (i : Instr) (hr : s.resetIn = false) (hc : s.cmd = some w)
      (hd : decode w = .ok i) (h : Completed i (takeCommand s) t) : Stepped s t
  | illegal (w : CmdWord) (why : Illegal) (hr : s.resetIn = false) (hc : s.cmd = some w)
      (hd : decode w = .error why) : Stepped s (respond .errIllegal 0 (takeCommand s))

theorem stepped_of_step {s t : State} (h : step s = .next t) : Stepped s t := by
  cases hr : s.resetIn with
  | true =>
    cases (step_of_reset hr).symm.trans h
    exact .reset hr
  | false =>
    cases hc : s.cmd with
    | none =>
      cases (step_of_empty hr hc).symm.trans h
      exact .waits hr hc
    | some w =>
      cases hd : decode w with
      | ok i =>
        have hexec := (step_of_command hr hc hd).symm.trans h
        exact .command w i hr hc hd (exec_completed hexec)
      | error why =>
        cases (step_of_illegal hr hc hd).symm.trans h
        exact .illegal w why hr hc hd

theorem tableWord_eq_some {n w : Nat} {cmd : CmdWord} (h : tableWord n w = some cmd) :
    cmd = BitVec.ofNat 48 (w % 2 ^ n) := by
  unfold tableWord at h
  split at h <;> cases h
  rfl

/-- The command the table reads is the one the decoder reads from the word placed on the port. -/
theorem decode_of_decodeTableWord {n w : Nat} {i : Instr} (h : decodeTableWord n w = some i) :
    decode (BitVec.ofNat 48 (w % 2 ^ n)) = .ok i := by
  unfold decodeTableWord at h
  split at h
  · rename_i cmd hcmd
    rw [← tableWord_eq_some hcmd]
    split at h <;> cases h
    assumption
  · cases h

/-! ### Sessions -/

theorem session_cons_eq_next {a : HostAction} {rest : List HostAction} {s t : State} :
    session (a :: rest) s = .next t ↔
      ∃ u, step (hostAct a s) = .next u ∧ session rest u = .next t := by
  cases h : step (hostAct a s) <;> simp [session, h]

/-- A property that the outside's actions and the steps keep holds of every state a session
reaches. -/
theorem session_induction {P : State → Prop} (hact : ∀ a s, P s → P (hostAct a s))
    (hstep : ∀ s t, P s → step s = .next t → P t) (acts : List HostAction) {s t : State}
    (hs : P s) (h : session acts s = .next t) : P t := by
  induction acts generalizing s with
  | nil =>
    cases h
    exact hs
  | cons a rest ih =>
    obtain ⟨u, hu, hrest⟩ := session_cons_eq_next.mp h
    exact ih (hstep _ u (hact a s hs) hu) hrest

end Sys2Proof.Machine
end

section
/-! SUPPORT. Every step keeps the invariant of Safety.lean: first what the invariant says of each
lifecycle state and of the pins a command touches, then one lemma per named update of a command. -/

namespace Sys2Proof.Machine

/-! ### The gates -/

theorem jtagAvailable_iff {s : State} :
    jtagAvailable s = true ↔ s.life = .active ∧ s.jtagOn = true := by
  simp [jtagAvailable]

theorem swdAvailable_iff {s : State} :
    swdAvailable s = true ↔ s.life = .active ∧ s.swdOn = true := by
  simp [swdAvailable]

theorem jtagBlinkAvailable_iff {s : State} :
    jtagBlinkAvailable s = true ↔
      s.life = .active ∧ s.jtagOn = true ∧ s.pa.blink ≠ noPin := by
  simp [jtagBlinkAvailable, blinkJ, PinRegs.assigned, PinRegs.get]

theorem swdBlinkAvailable_iff {s : State} :
    swdBlinkAvailable s = true ↔
      s.life = .active ∧ s.swdOn = true ∧ s.pa.blink ≠ noPin := by
  simp [swdBlinkAvailable, blinkS, PinRegs.assigned, PinRegs.get]

/-! ### Maps of pins of the platform -/

/-- A canonical map that lists only pins the platform calls usable. -/
structure OnPlatform {α : Type} (ps : Params) (m : PinMap α) : Prop where
  wf : PinMap.WF m
  exists_of_mem : ∀ e ∈ m, PinExists ps e.1

section
variable {α : Type} {ps : Params} {m : PinMap α}

theorem onPlatform_nil : OnPlatform ps ([] : PinMap α) := ⟨.nil, by simp⟩

theorem OnPlatform.set (h : OnPlatform ps m) {p : PinIdx} (hp : pinValid ps p = true) (a : α) :
    OnPlatform ps (PinMap.set m p.toNat a) := by
  refine ⟨pinMap_wf_set m _ a h.wf, fun e he => ?_⟩
  rcases pinMap_mem_set m _ a e he with rfl | he
  · exact ⟨p, rfl, hp⟩
  · exact h.exists_of_mem e he

theorem OnPlatform.setAll (h : OnPlatform ps m) {updates : List (Nat × α)}
    (hu : ∀ e ∈ updates, PinExists ps e.1) : OnPlatform ps (PinMap.setAll m updates) := by
  refine ⟨pinMap_wf_setAll updates m h.wf, fun e he => ?_⟩
  rcases pinMap_mem_setAll updates m e he with he | he
  · exact hu e he
  · exact h.exists_of_mem e he

end

/-- Directions and latches are held for pins of the platform only. -/
structure PinsOnPlatform (s : State) : Prop where
  dir : OnPlatform s.params s.dir
  lvl : OnPlatform s.params s.lvl

theorem PinInv.onPlatform {s : State} (h : PinInv s) : PinsOnPlatform s :=
  ⟨⟨h.dir_wf, h.dir_exists⟩, ⟨h.lvl_wf, h.lvl_exists⟩⟩

theorem SessionInv.onPlatform {s : State} (h : SessionInv s) : PinsOnPlatform s :=
  h.2.onPlatform

/-! ### What INIT's phases touch -/

theorem setOutState_onPlatform {s : State} {p : PinIdx} (b : Bool) (h : PinsOnPlatform s)
    (hp : pinOutCapable s.params p = true) : PinsOnPlatform (setOutState p b s) :=
  ⟨h.dir.set (pinValid_of_outCapable hp) _, h.lvl.set (pinValid_of_outCapable hp) _⟩

theorem jtagPinsState_onPlatform {s : State} (h : PinsOnPlatform s)
    (hc : AllCapable s.params [s.pa.tdi, s.pa.tck, s.pa.tms]) :
    PinsOnPlatform (jtagPinsState s) :=
  setOutState_onPlatform _
    (setOutState_onPlatform _ (setOutState_onPlatform _ h (hc _ (by simp))) (hc _ (by simp)))
    (hc _ (by simp))

theorem swdPinsState_onPlatform {s : State} (h : PinsOnPlatform s)
    (hc : AllCapable s.params [s.pa.swdio, s.pa.swclk]) : PinsOnPlatform (swdPinsState s) :=
  setOutState_onPlatform _ (setOutState_onPlatform _ h (hc _ (by simp))) (hc _ (by simp))

theorem bundlesState_onPlatform {s : State} (h : PinsOnPlatform s)
    (hp : pinValid s.params s.pa.tdo = true) : PinsOnPlatform (bundlesState s) :=
  ⟨h.dir.set hp _, h.lvl⟩

theorem optionalState_onPlatform {s : State} {p : PinIdx} (b : Bool) (h : PinsOnPlatform s)
    (hp : p ≠ noPin → pinOutCapable s.params p = true) :
    PinsOnPlatform (optionalState p b s) := by
  unfold optionalState
  split
  · exact h
  · exact setOutState_onPlatform b h (hp ‹_›)

theorem optionalPinsState_onPlatform {s : State} (h : PinsOnPlatform s)
    (hc : AllCapable s.params (assignedOptional s.pa)) :
    PinsOnPlatform (optionalPinsState s) := by
  obtain ⟨htrst, hsrst, hblink⟩ := (allCapable_optional s.params s.pa).mp hc
  exact optionalState_onPlatform _
    (optionalState_onPlatform _ (optionalState_onPlatform _ h htrst) (by simpa using hsrst))
    (by simpa using hblink)

theorem initState_onPlatform {j w : Bool} {s : State} (h : PinsOnPlatform s)
    (htdo : j = true → pinValid s.params s.pa.tdo = true)
    (hc : AllCapable s.params (drivenPins j w s.pa)) : PinsOnPlatform (initState j w s) := by
  obtain ⟨hjtag, hswd, hopt⟩ := (allCapable_driven j w s.params s.pa).mp hc
  have hstart : PinsOnPlatform { s with life := .validated } := ⟨h.dir, h.lvl⟩
  have hj : PinsOnPlatform (jtagPart j { s with life := .validated }) := by
    cases j with
    | false => exact hstart
    | true => exact bundlesState_onPlatform (jtagPinsState_onPlatform hstart (hjtag rfl)) (htdo rfl)
  have hw : PinsOnPlatform (swdPart w (jtagPart j { s with life := .validated })) := by
    cases w with
    | false => exact hj
    | true => exact swdPinsState_onPlatform hj (by simpa using hswd rfl)
  have hlast := optionalPinsState_onPlatform hw (by simpa using hopt)
  exact ⟨hlast.dir, hlast.lvl⟩

/-! ### What the invariant says -/

section
variable {s : State}

theorem RegInv.active_of_jtagOn (h : RegInv s) (hj : s.jtagOn = true) : s.life = .active :=
  h.on_iff_active.mp (.inl hj)

theorem RegInv.paths_off (h : RegInv s) (hl : s.life ≠ .active) :
    s.jtagOn = false ∧ s.swdOn = false := by
  simpa using mt h.on_iff_active.mp hl

/-- The slot form changes no value: `ABSENT` is coded as `NONE` (10_state R19). -/
@[simp] theorem slotOf_eq (v : PinIdx) : slotOf v = v := by
  unfold slotOf
  split <;> simp [*]

/-- A pin of a bundle slot is one INIT drove (44_lifecycle R146). -/
theorem mem_drivenPins_of_bundlePins {w : Bool} {pa : PinRegs} (i : Fin 6)
    (hi : (bundlePins pa)[i] ≠ noPin) : (bundlePins pa)[i] ∈ drivenPins true w pa := by
  fin_cases i <;> simp_all [bundlePins, drivenPins]

/-- A bundle write updates pins of the platform only. -/
theorem RegInv.bundleUpdates_exist (h : RegInv s) (hj : s.jtagOn = true) (mask val : BitVec 6) :
    ∀ e ∈ bundleUpdates s mask val, PinExists s.params e.1 := by
  intro e he
  have hsel := (pinMap_mem_setAll _ _ e he).resolve_right (by simp)
  obtain ⟨x, hx, rfl⟩ := List.mem_map.mp hsel
  obtain ⟨i, -, hi, rfl⟩ := mem_selectedSlots.mp hx
  refine ⟨s.oslot[i], rfl, pinValid_of_outCapable ?_⟩
  apply h.driven_capable (h.active_of_jtagOn hj)
  rw [(h.slots_on hj).1] at hi ⊢
  rw [hj]
  exact mem_drivenPins_of_bundlePins i hi

/-- While no path is installed, all the invariant asks of the pins is that they are the platform's
and that none is touched before INIT. -/
theorem pinInv_of_paths_off (hp : PinsOnPlatform s) (hl : s.life ≠ .active)
    (hj : s.jtagOn = false) (hw : s.swdOn = false)
    (hu : s.life = .unconfigured → s.dir = [] ∧ s.lvl = [] ∧ s.trace = []) : PinInv s where
  dir_wf := hp.dir.wf
  lvl_wf := hp.lvl.wf
  dir_exists := hp.dir.exists_of_mem
  lvl_exists := hp.lvl.exists_of_mem
  untouched := hu
  jtag_outputs := by simp [hj]
  tdo_input := by simp [hj]
  swclk_output := by simp [hw]
  optional_outputs := fun h => absurd h hl

end

/-! ### What the invariant does not read -/

/-- The inputs, the command port and the responses are free. -/
theorem SessionInv.with_ports {s : State} (h : SessionInv s) {responses : List RspWord}
    {cmd : Option CmdWord} {resetIn trJtag trSwd allocOutOK allocInOK : Bool} {env : Env} :
    SessionInv { s with
      responses := responses, cmd := cmd, resetIn := resetIn, trJtag := trJtag, trSwd := trSwd
      allocOutOK := allocOutOK, allocInOK := allocInOK, env := env } :=
  have ⟨hreg, hpin⟩ := h
  ⟨{ hreg with }, { hpin with }⟩

/-- Once INIT has run, TRACE is free, and the latches are too, on pins of the platform. -/
theorem SessionInv.with_latches {s : State} (h : SessionInv s) (hl : s.life ≠ .unconfigured)
    {lvl : PinMap Bool} (hlvl : OnPlatform s.params lvl) {trace : List Event} {env : Env} :
    SessionInv { s with lvl := lvl, trace := trace, env := env } :=
  have ⟨hreg, hpin⟩ := h
  ⟨{ hreg with },
   { hpin with
     lvl_wf := hlvl.wf
     lvl_exists := hlvl.exists_of_mem
     untouched := fun hu => absurd hu hl }⟩

theorem respond_inv {s : State} (h : SessionInv s) (st : Status) (d : BitVec 32) :
    SessionInv (respond st d s) := h.with_ports

theorem takeCommand_inv {s : State} (h : SessionInv s) : SessionInv (takeCommand s) :=
  h.with_ports

theorem hostAct_inv {s : State} (h : SessionInv s) (a : HostAction) :
    SessionInv (hostAct a s) := by
  cases a <;> exact h.with_ports

/-! ### Reset, configuration, lifecycle and speed -/

theorem khzReset_ne_zero {ps : Params} (h : ps.wf = true) : ps.khzReset ≠ 0 := by
  simp only [Params.wf, Bool.and_eq_true, bne_iff_ne] at h
  exact h.2

/-- Reset needs of the state before it only that its parameters are in bounds. -/
theorem applyReset_inv {s : State} (h : s.params.wf = true) : SessionInv (applyReset s) where
  left := {
    params_wf := h
    khz_ne_zero := khzReset_ne_zero h
    delay_fixed := rfl
    life_ne_validated := by simp [applyReset, State.reset]
    on_iff_active := by simp [applyReset, State.reset]
    ob_alloc := rfl
    ib_alloc := rfl
    slots_on := by simp [applyReset, State.reset]
    slots_off := fun _ => ⟨rfl, rfl⟩
    jtag_checked := by simp [applyReset, State.reset]
    driven_capable := by simp [applyReset, State.reset] }
  right := pinInv_of_paths_off ⟨onPlatform_nil, onPlatform_nil⟩ (by simp [applyReset, State.reset])
    rfl rfl fun _ => ⟨rfl, rfl, rfl⟩

/-- Before INIT the registers of pins may hold anything (10_state R12). -/
theorem setPinsState_inv {s : State} (h : SessionInv s) (hl : s.life = .unconfigured)
    (sigs : List Signal) (c : CfgArgs) : SessionInv (setPinsState sigs c s) := by
  obtain ⟨hreg, hpin⟩ := h
  have hact : s.life ≠ .active := by simp [hl]
  obtain ⟨hj, hw⟩ := hreg.paths_off hact
  constructor
  · exact { hreg with
      slots_on := fun h => absurd (hj.symm.trans h) (by simp)
      jtag_checked := fun h => absurd (hj.symm.trans h) (by simp)
      driven_capable := fun h => absurd h hact }
  · exact pinInv_of_paths_off ⟨hpin.onPlatform.dir, hpin.onPlatform.lvl⟩ hact hj hw hpin.untouched

/-- A session that is over: no path, no bundle, the pins as they are (44_lifecycle R151, R153). -/
theorem shutdown_inv {s : State} (h : RegInv s) {j w : Bool} (hj : j = false) (hw : w = false)
    {dir : PinMap Drive} {lvl : PinMap Bool} (hdir : OnPlatform s.params dir)
    (hlvl : OnPlatform s.params lvl) {trace : List Event} :
    SessionInv { releaseBundles s with
      life := .shutdown, jtagOn := j, swdOn := w, dir := dir, lvl := lvl, trace := trace } := by
  constructor
  · exact { h with
      life_ne_validated := by simp
      on_iff_active := by simp [hj, hw]
      ob_alloc := hj.symm
      ib_alloc := hj.symm
      slots_on := by simp [hj]
      slots_off := fun _ => ⟨rfl, rfl⟩
      jtag_checked := by simp [hj]
      driven_capable := by simp }
  · exact pinInv_of_paths_off ⟨hdir, hlvl⟩ (by simp) hj hw (by simp)

theorem quitState_inv {s : State} (h : SessionInv s) : SessionInv (quitState s) :=
  have ⟨hreg, hpin⟩ := h
  shutdown_inv hreg rfl rfl hpin.onPlatform.dir hpin.onPlatform.lvl

theorem failedState_inv {s : State} (h : SessionInv s) (hl : s.life = .unconfigured)
    (hc : AllCapable s.params [s.pa.tdi, s.pa.tck, s.pa.tms]) :
    SessionInv (failedState (jtagPinsState { s with life := .validated })) := by
  obtain ⟨hreg, hpin⟩ := h
  obtain ⟨hj, hw⟩ := hreg.paths_off (by simp [hl])
  have hpins : PinsOnPlatform (jtagPinsState { s with life := .validated }) :=
    jtagPinsState_onPlatform ⟨hpin.onPlatform.dir, hpin.onPlatform.lvl⟩ hc
  exact shutdown_inv hreg hj hw hpins.dir hpins.lvl

theorem setSpeed_inv {s : State} (h : SessionInv s) {k : BitVec 32} (hk : k ≠ 0) :
    SessionInv { s with khz := k } :=
  have ⟨hreg, hpin⟩ := h
  ⟨{ hreg with khz_ne_zero := hk }, { hpin with }⟩

/-! ### INIT -/

/-- Two pins with one number are one pin. -/
theorem pinIdx_toNat_ne {p q : PinIdx} (h : p ≠ q) : p.toNat ≠ q.toNat := fun heq =>
  h (BitVec.eq_of_toNat_eq heq)

theorem initState_regInv {j w : Bool} {s : State} (h : RegInv s) (hl : s.life = .unconfigured)
    (hjw : j = true ∨ w = true) (hcj : j = true → canOperateJtag s = true)
    (hc : AllCapable s.params (drivenPins j w s.pa)) : RegInv (initState j w s) := by
  obtain ⟨hj, hw⟩ := h.paths_off (by simp [hl])
  have hob : s.obAlloc = false := h.ob_alloc.trans hj
  have hib : s.ibAlloc = false := h.ib_alloc.trans hj
  obtain ⟨d, l, tr, hinit⟩ := initState_frame j w s
  rw [hinit]
  exact { h with
    life_ne_validated := by simp
    on_iff_active := by simpa using hjw
    ob_alloc := by simp [hob]
    ib_alloc := by simp [hib]
    slots_on := fun (hon : j = true) => by simp [hon]
    slots_off := fun (hoff : j = false) => by simpa [hoff] using h.slots_off hj
    jtag_checked := hcj
    driven_capable := fun _ => hc }

@[simp] theorem initState_pa (j w : Bool) (s : State) : (initState j w s).pa = s.pa := by
  obtain ⟨d, l, tr, hinit⟩ := initState_frame j w s
  rw [hinit]

@[simp] theorem initState_life (j w : Bool) (s : State) : (initState j w s).life = .active := rfl

@[simp] theorem initState_jtagOn (j w : Bool) (s : State) : (initState j w s).jtagOn = j := rfl

@[simp] theorem initState_swdOn (j w : Bool) (s : State) : (initState j w s).swdOn = w := rfl

theorem initState_pinInv {j w : Bool} {s : State} (h : PinInv s)
    (htdo : j = true → pinValid s.params s.pa.tdo = true)
    (hc : AllCapable s.params (drivenPins j w s.pa)) : PinInv (initState j w s) := by
  have hpins := initState_onPlatform h.onPlatform htdo hc
  constructor
  case dir_wf => exact hpins.dir.wf
  case lvl_wf => exact hpins.lvl.wf
  case dir_exists => exact hpins.dir.exists_of_mem
  case lvl_exists => exact hpins.lvl.exists_of_mem
  case untouched => simp
  all_goals
    simp only [initState_pa, initState_life, initState_jtagOn, initState_swdOn,
      initState_direction]
  case jtag_outputs =>
    intro hj p hp hne _
    have hlast : p.toNat = s.pa.tms.toNat ∨ p.toNat = s.pa.tck.toNat ∨
        p.toNat = s.pa.tdi.toNat := by
      simp only [List.mem_cons, List.not_mem_nil, or_false] at hp
      rcases hp with rfl | rfl | rfl <;> simp
    simp [hj, pinIdx_toNat_ne hne, hlast]
  case tdo_input =>
    intro hj hopt hswd
    simp only [List.mem_cons, List.not_mem_nil, or_false, not_or] at hopt
    obtain ⟨htrst, hsrst, hblink⟩ := hopt
    have hsw : ¬ (w = true ∧
        (s.pa.tdo.toNat = s.pa.swclk.toNat ∨ s.pa.tdo.toNat = s.pa.swdio.toNat)) := by
      rintro ⟨hw, heq | heq⟩
      · exact pinIdx_toNat_ne (hswd hw).1 heq
      · exact pinIdx_toNat_ne (hswd hw).2 heq
    simp only [pinIdx_toNat_ne htrst, pinIdx_toNat_ne hsrst, pinIdx_toNat_ne hblink, hsw, hj,
      and_false, if_false, true_and, if_true]
  case swclk_output =>
    intro hw _
    simp [hw]
  case optional_outputs =>
    intro _ p hp hne _
    simp only [List.mem_cons, List.not_mem_nil, or_false] at hp
    rcases hp with rfl | rfl | rfl <;> simp [hne]

theorem initState_inv {s : State} (h : SessionInv s) (hl : s.life = .unconfigured)
    (hv : Validated s) (hc : AllCapable s.params (drivenPins s.trJtag s.trSwd s.pa)) :
    SessionInv (initState s.trJtag s.trSwd s) := by
  obtain ⟨hreg, hpin⟩ := h
  obtain ⟨hjw, hcj, -⟩ := hv
  exact ⟨initState_regInv hreg hl hjw hcj hc,
    initState_pinInv hpin (fun hj => tdo_valid_of_canOperate (hcj hj)) hc⟩

/-! ### Samples, bundle writes and level writes -/

theorem SessionInv.with_trace {s : State} (h : SessionInv s) (hl : s.life ≠ .unconfigured)
    {trace : List Event} {env : Env} : SessionInv { s with trace := trace, env := env } :=
  h.with_latches hl h.onPlatform.lvl

theorem applyDelay_inv {s : State} (h : SessionInv s) (hl : s.life ≠ .unconfigured) :
    SessionInv (applyDelay s) := h.with_trace hl

theorem bundleState_inv {s : State} (h : SessionInv s) (hj : s.jtagOn = true)
    (mask val : BitVec 6) : SessionInv (bundleState mask val s) := by
  have hlvl := h.onPlatform.lvl
  have ⟨hreg, _⟩ := h
  have hl : s.life ≠ .unconfigured := by simp [hreg.active_of_jtagOn hj]
  exact h.with_latches hl (hlvl.setAll (hreg.bundleUpdates_exist hj mask val))

theorem lineState_inv {s : State} (h : SessionInv s) (hj : s.jtagOn = true) (sig : Signal)
    (mask val : BitVec 6) : SessionInv (lineState sig mask val s) := by
  unfold lineState
  split
  · exact bundleState_inv h hj mask val
  · exact h

theorem lineState_jtagOn (sig : Signal) (mask val : BitVec 6) (s : State) :
    (lineState sig mask val s).jtagOn = s.jtagOn := by
  obtain ⟨l, tr, h⟩ := lineState_frame sig mask val s
  rw [h]

theorem jtagResetState_inv {s : State} (h : SessionInv s) (hj : s.jtagOn = true)
    (trst srst : Bool) : SessionInv (jtagResetState trst srst s) :=
  lineState_inv (lineState_inv h hj _ _ _) ((lineState_jtagOn _ _ _ _).trans hj) _ _ _

theorem levelState_inv {s : State} (h : SessionInv s) (hl : s.life ≠ .unconfigured)
    {p : PinIdx} (hp : pinValid s.params p = true) (b : Bool) : SessionInv (levelState p b s) :=
  h.with_latches hl (h.onPlatform.lvl.set hp b)

theorem swdLevelsState_inv {s : State} (h : SessionInv s) (hl : s.life ≠ .unconfigured)
    (hc : pinValid s.params s.pa.swclk = true) (hd : pinValid s.params s.pa.swdio = true)
    (clockFirst swclk swdio : Bool) : SessionInv (swdLevelsState clockFirst swclk swdio s) := by
  cases clockFirst with
  | true => exact levelState_inv (levelState_inv h hl hc _) hl hd _
  | false => exact levelState_inv (levelState_inv h hl hd _) hl hc _

/-! ### SWD_DRIVE -/

/-- Turning SWDIO round moves no other pin, and the invariant asks no direction of SWDIO. -/
theorem dirState_swdio_inv {s : State} (h : SessionInv s) (hl : s.life = .active)
    (hw : s.swdOn = true) (hv : pinValid s.params s.pa.swdio = true) (d : Drive) :
    SessionInv (dirState s.pa.swdio d s) := by
  have hdir := h.onPlatform.dir.set hv d
  obtain ⟨hreg, hpin⟩ := h
  have hkeep : ∀ p x, p ≠ s.pa.swdio → s.direction p.toNat = x →
      (dirState s.pa.swdio d s).direction p.toNat = x := fun p x hne hx => by
    simp [pinIdx_toNat_ne hne, hx]
  constructor
  · exact { hreg with }
  · exact { hpin with
      dir_wf := hdir.wf
      dir_exists := hdir.exists_of_mem
      untouched := fun hu => absurd (hl.symm.trans hu) (by simp)
      jtag_outputs := fun hj p hp hne hsw =>
        hkeep p _ (hsw hw) (hpin.jtag_outputs hj p hp hne hsw)
      tdo_input := fun hj hopt hsw =>
        hkeep _ _ (hsw hw).2 (hpin.tdo_input hj hopt hsw)
      swclk_output := fun _ hne => hkeep _ _ hne (hpin.swclk_output hw hne)
      optional_outputs := fun ha p hp hne hsw =>
        hkeep p _ (hsw hw) (hpin.optional_outputs ha p hp hne hsw) }

/-! ### Every command, every step -/

theorem completed_keeps_sessionInv {i : Instr} {s t : State} (hc : Completed i s t)
    (h : SessionInv s) : SessionInv t := by
  have hnot : s.life = .active → s.life ≠ .unconfigured := fun hl => by simp [hl]
  cases hc with
  | failed | query | speedGet => exact respond_inv h _ _
  | set i sigs c s _ _ hl => exact respond_inv (setPinsState_inv h hl sigs c) _ _
  | initFailed s d hl _ _ hc _ => exact respond_inv (failedState_inv h hl hc) _ _
  | initOk s hl hv _ hc => exact respond_inv (initState_inv h hl hv hc) _ _
  | quit => exact respond_inv (quitState_inv h) _ _
  | speedSet k s hk => exact respond_inv (setSpeed_inv h hk) _ _
  | jtagWrite s tck tms tdi ha =>
    obtain ⟨hl, hj⟩ := jtagAvailable_iff.mp ha
    exact respond_inv (applyDelay_inv (bundleState_inv h hj _ _) (hnot hl)) _ _
  | jtagRead s ha => exact respond_inv (h.with_trace (hnot (jtagAvailable_iff.mp ha).1)) _ _
  | jtagReset s trst srst ha =>
    exact respond_inv (jtagResetState_inv h (jtagAvailable_iff.mp ha).2 trst srst) _ _
  | jtagBlink s on ha =>
    exact respond_inv (bundleState_inv h (jtagBlinkAvailable_iff.mp ha).2.1 _ _) _ _
  | swdDrive s isOutput ha hv =>
    obtain ⟨hl, hw⟩ := swdAvailable_iff.mp ha
    exact respond_inv (dirState_swdio_inv h hl hw hv _) _ _
  | swdWrite s swclk swdio ha hc hd =>
    have hl := hnot (swdAvailable_iff.mp ha).1
    have hlevels := swdLevelsState_inv h hl hc hd (clockGoesFirst s) swclk swdio
    obtain ⟨l, tr, hframe⟩ := swdLevelsState_frame (clockGoesFirst s) swclk swdio s
    exact respond_inv (applyDelay_inv hlevels (by rw [hframe]; exact hl)) _ _
  | swdRead s ha => exact respond_inv (h.with_trace (hnot (swdAvailable_iff.mp ha).1)) _ _
  | swdBlink s on ha hv =>
    exact respond_inv (levelState_inv h (hnot (swdBlinkAvailable_iff.mp ha).1) hv on) _ _

theorem step_keeps_sessionInv {s t : State} (h : SessionInv s) (hs : step s = .next t) :
    SessionInv t := by
  cases stepped_of_step hs with
  | reset => exact applyReset_inv h.1.params_wf
  | waits => exact h
  | command w i _ _ _ hc => exact completed_keeps_sessionInv hc (takeCommand_inv h)
  | illegal => exact respond_inv (takeCommand_inv h) _ _

end Sys2Proof.Machine
end

section
/-! SUPPORT. The statements of 00_scope.md: the step and the sessions. -/

namespace Sys2Proof.Proofs

open Sys2Proof Sys2Proof.Machine

/-- Settles O59: the outside moves only what the invariant does not read, every step keeps it, and a
session is made of these two. -/
theorem sessionsKeepTheInvariant : Obligations.SessionsKeepTheInvariant := by
  unfold Obligations.SessionsKeepTheInvariant
  intro acts s t hs hsession
  exact session_induction (fun a s h => hostAct_inv h a) (fun s t h => step_keeps_sessionInv h) acts
    hs hsession

/-- Settles O8: the command case of a step. -/
theorem stepRunsTheDecodedCommand : Obligations.StepRunsTheDecodedCommand := by
  unfold Obligations.StepRunsTheDecodedCommand
  intro s w i hr hc hd
  exact step_of_command hr hc hd

/-- Settles O9: the placed word is on the port with reset released, and decodes as the table says. -/
theorem placedWordIsRunNext : Obligations.PlacedWordIsRunNext := by
  unfold Obligations.PlacedWordIsRunNext
  intro s w i _ hd
  exact step_of_command rfl rfl (decode_of_decodeTableWord hd)

end Sys2Proof.Proofs
end

section
/-! SUPPORT. Who writes what (spec 10_state R32): what a configuration command keeps, the columns of
the table as one list of cases for all commands, which latches each primitive reaches, and what a pad
shows (R26); then the invariant at reset. -/

namespace Sys2Proof.Machine

/-! ### Configuration commands (40_pin_config R80) -/

/-- A register that no update names keeps its value. -/
theorem pinRegs_get_setAll_other (updates : List (Signal × PinIdx)) (r : PinRegs) (x : Signal)
    (h : ∀ e ∈ updates, e.1 ≠ x) : (r.setAll updates).get x = r.get x := by
  induction updates generalizing r with
  | nil => rfl
  | cons e updates ih =>
    have hrest := ih (r.set e.1 e.2) fun u hu => h u (List.mem_cons_of_mem _ hu)
    exact hrest.trans (get_set_other r e.1 x e.2 (h e List.mem_cons_self))

theorem setPinsState_get_other {sigs : List Signal} {x : Signal} (h : x ∉ sigs) (c : CfgArgs)
    (s : State) : (setPinsState sigs c s).pa.get x = s.pa.get x := by
  refine pinRegs_get_setAll_other _ s.pa x fun e he hx => h ?_
  rw [← hx]
  exact (List.of_mem_zip he).1

theorem config_frame {sigs : List Signal} {c : CfgArgs} {s t : State}
    (h : (config sigs c s).answer = .next t) :
    t = { s with pa := t.pa, responses := t.responses } ∧
      ∀ x : Signal, x ∉ sigs → t.pa.get x = s.pa.get x := by
  rw [config_answer] at h
  split_ifs at h <;> cases h
  · exact ⟨rfl, fun x hx => setPinsState_get_other hx c s⟩
  all_goals exact ⟨rfl, fun _ _ => rfl⟩

/-! ### The write columns of R32 -/

/-- The fields a command that completes may have written, column by column (10_state R32); `answer`
is the column of every command, and INIT's is split by whether it is for a JTAG session (R23). -/
inductive Written (s : State) : Instr → State → Prop
  | answer {i : Instr} {responses : List RspWord} : Written s i { s with responses := responses }
  | config {i : Instr} {pa : PinRegs} {responses : List RspWord}
      (hi : (configCommand i).isSome = true) (hl : s.life = .unconfigured) :
      Written s i { s with pa := pa, responses := responses }
  | initJtag {life : Life} {jtagOn swdOn obAlloc ibAlloc : Bool} {oslot : Vector PinIdx 6}
      {islot : PinIdx} {dir : PinMap Drive} {lvl : PinMap Bool} {trace : List Event}
      {responses : List RspWord} (hl : s.life = .unconfigured) (hj : s.trJtag = true) :
      Written s .init { s with
        life := life, jtagOn := jtagOn, swdOn := swdOn, obAlloc := obAlloc, ibAlloc := ibAlloc
        oslot := oslot, islot := islot, dir := dir, lvl := lvl, trace := trace
        responses := responses }
  | initSwd {life : Life} {jtagOn swdOn : Bool} {dir : PinMap Drive} {lvl : PinMap Bool}
      {trace : List Event} {responses : List RspWord} (hl : s.life = .unconfigured) :
      Written s .init { s with
        life := life, jtagOn := jtagOn, swdOn := swdOn, dir := dir, lvl := lvl, trace := trace
        responses := responses }
  | quit {responses : List RspWord} :
      Written s .quit { quitState s with responses := responses }
  | speedSet {k : BitVec 32} {responses : List RspWord} :
      Written s (.speedSet k) { s with khz := k, responses := responses }
  | drive {i : Instr} {dir : PinMap Drive} {lvl : PinMap Bool} {trace : List Event}
      {responses : List RspWord} (hi : (primitiveTransport i).isSome = true) :
      Written s i { s with dir := dir, lvl := lvl, trace := trace, responses := responses }
  | sample {i : Instr} {env : Env} {trace : List Event} {responses : List RspWord}
      (hi : i = .jtagRead ∨ i = .swdRead) :
      Written s i { s with env := env, trace := trace, responses := responses }

theorem initState_written {j : Bool} {s : State} (hl : s.life = .unconfigured)
    (hj : s.trJtag = j) (w : Bool) : Written s .init (respond .ok 0 (initState j w s)) := by
  obtain ⟨d, l, tr, hinit⟩ := initState_frame j w s
  rw [hinit]
  cases j with
  | true => exact .initJtag hl hj
  | false => exact .initSwd hl

theorem completed_written {i : Instr} {s t : State} (h : Completed i s t) : Written s i t := by
  cases h with
  | failed | query | speedGet => exact .answer
  | set i sigs c s hi _ hl => exact .config (by simp [hi]) hl
  | initFailed s _ hl _ hj => exact .initJtag hl hj
  | initOk s hl => exact initState_written hl rfl _
  | quit => exact .quit
  | speedSet => exact .speedSet
  | jtagWrite | jtagBlink | swdDrive | swdBlink => exact .drive rfl
  | jtagReset s trst srst =>
    obtain ⟨l, tr, hframe⟩ := jtagResetState_frame trst srst s
    rw [hframe]
    exact .drive rfl
  | swdWrite s swclk swdio =>
    obtain ⟨l, tr, hframe⟩ := swdLevelsState_frame (clockGoesFirst s) swclk swdio s
    rw [hframe]
    exact .drive rfl
  | jtagRead => exact .sample (.inl rfl)
  | swdRead => exact .sample (.inr rfl)

theorem exec_written {i : Instr} {s t : State} (h : exec i s = .next t) : Written s i t :=
  completed_written (exec_completed h)

section
variable {i : Instr} {s t : State}

/-- `PA` is in the column of the configuration commands alone (R13). -/
theorem Written.of_pa_ne (h : Written s i t) (hne : t.pa ≠ s.pa) :
    (configCommand i).isSome = true ∧ s.life = .unconfigured := by
  cases h with
  | config hi hl => exact ⟨hi, hl⟩
  | answer | initJtag | initSwd | quit | speedSet | drive | sample => exact absurd rfl hne

/-- The bundles are in the columns of INIT, for a JTAG session, and QUIT alone (R23). -/
theorem Written.of_bundles_ne (h : Written s i t)
    (hne : t.obAlloc ≠ s.obAlloc ∨ t.ibAlloc ≠ s.ibAlloc ∨ t.oslot ≠ s.oslot ∨
      t.islot ≠ s.islot) :
    (i = .init ∧ s.life = .unconfigured ∧ s.trJtag = true) ∨
      (i = .quit ∧ ∃ responses, t = { quitState s with responses := responses }) := by
  cases h with
  | initJtag hl hj => exact .inl ⟨rfl, hl, hj⟩
  | quit => exact .inr ⟨rfl, _, rfl⟩
  | answer | config | initSwd | speedSet | drive | sample => simp at hne

theorem Written.of_life_or_flags_ne (h : Written s i t)
    (hne : t.life ≠ s.life ∨ t.jtagOn ≠ s.jtagOn ∨ t.swdOn ≠ s.swdOn) :
    i = .init ∨ i = .quit := by
  cases h with
  | initJtag | initSwd => exact .inl rfl
  | quit => exact .inr rfl
  | answer | config | speedSet | drive | sample => simp at hne

theorem Written.of_khz_ne (h : Written s i t) (hne : t.khz ≠ s.khz) : ∃ k, i = .speedSet k := by
  cases h with
  | speedSet => exact ⟨_, rfl⟩
  | answer | config | initJtag | initSwd | quit | drive | sample => exact absurd rfl hne

/-- ENV's answers are used up by the two reads. -/
theorem Written.of_env_ne (h : Written s i t) (hne : t.env ≠ s.env) :
    i = .jtagRead ∨ i = .swdRead := by
  cases h with
  | sample hi => exact hi
  | answer | config | initJtag | initSwd | quit | speedSet | drive => exact absurd rfl hne

/-- What stands in no column: DELAY_CNT, the inputs, the command port, and the model's own
parameters and reset count. -/
theorem Written.unwritten (h : Written s i t) :
    t.delayCnt = s.delayCnt ∧ t.trJtag = s.trJtag ∧ t.trSwd = s.trSwd ∧
      t.allocOutOK = s.allocOutOK ∧ t.allocInOK = s.allocInOK ∧ t.cmd = s.cmd ∧
      t.resetIn = s.resetIn ∧ t.params = s.params ∧ t.epoch = s.epoch := by
  cases h <;> exact ⟨rfl, rfl, rfl, rfl, rfl, rfl, rfl, rfl, rfl⟩

end

theorem quitState_slot (s : State) (k : Fin 6) : (quitState s).oslot[k] = noPin := by
  fin_cases k <;> rfl

/-! ### The latches a primitive reaches (20_memory R42, R44) -/

/-- The slots of each mask (10_state R20). -/
theorem maskJtagWrite_bit : ∀ k : Fin 6, maskJtagWrite.getLsbD k.val = true ↔ k.val < 3 := by
  decide

theorem maskTrst_bit : ∀ k : Fin 6, maskTrst.getLsbD k.val = true ↔ k = 3 := by decide

theorem maskSrst_bit : ∀ k : Fin 6, maskSrst.getLsbD k.val = true ↔ k = 4 := by decide

theorem maskBlink_bit : ∀ k : Fin 6, maskBlink.getLsbD k.val = true ↔ k = 5 := by decide

section
variable {s : State} {p : Nat}

/-- A bundle write changes a latch only through a slot its mask selects. -/
theorem slot_of_bundleState_level_ne {mask val : BitVec 6}
    (h : (bundleState mask val s).level p ≠ s.level p) :
    ∃ k : Fin 6, mask.getLsbD k.val = true ∧ p = s.oslot[k].toNat := by
  by_contra hno
  apply h
  have hnone : ∀ e ∈ selectedSlots s.oslot mask val, e.1 ≠ p := by
    rintro e he rfl
    obtain ⟨k, hk, -, rfl⟩ := mem_selectedSlots.mp he
    exact hno ⟨k, hk, rfl⟩
  rw [bundleState_level, bundleUpdates_get_none hnone]

theorem lineState_oslot (sig : Signal) (mask val : BitVec 6) (s : State) :
    (lineState sig mask val s).oslot = s.oslot := by
  obtain ⟨l, tr, hframe⟩ := lineState_frame sig mask val s
  rw [hframe]

theorem slot_of_lineState_level_ne {sig : Signal} {mask val : BitVec 6}
    (h : (lineState sig mask val s).level p ≠ s.level p) :
    ∃ k : Fin 6, mask.getLsbD k.val = true ∧ p = s.oslot[k].toNat := by
  unfold lineState at h
  split at h
  · exact slot_of_bundleState_level_ne h
  · exact absurd rfl h

/-- JTAG_RESET changes a latch by its write for TRST or, if not there, by its write for SRST. -/
theorem slot_of_jtagResetState_level_ne {trst srst : Bool}
    (h : (jtagResetState trst srst s).level p ≠ s.level p) :
    p = s.oslot[3].toNat ∨ p = s.oslot[4].toNat := by
  by_cases htrst : (lineState .trst maskTrst
      (bitAt 3 (resetLevel s.params.trstAssertLevel trst)) s).level p = s.level p
  · rw [← htrst] at h
    obtain ⟨k, hk, hp⟩ := slot_of_lineState_level_ne h
    obtain rfl := (maskSrst_bit k).mp hk
    rw [lineState_oslot] at hp
    exact .inr hp
  · obtain ⟨k, hk, hp⟩ := slot_of_lineState_level_ne htrst
    obtain rfl := (maskTrst_bit k).mp hk
    exact .inl hp

theorem pin_of_levelState_level_ne {q : PinIdx} {b : Bool}
    (h : (levelState q b s).level p ≠ s.level p) : p = q.toNat := by
  by_contra hp
  simp [hp] at h

theorem pin_of_swdLevelsState_level_ne {clockFirst swclk swdio : Bool}
    (h : (swdLevelsState clockFirst swclk swdio s).level p ≠ s.level p) :
    p = s.pa.swclk.toNat ∨ p = s.pa.swdio.toNat := by
  by_contra hp
  obtain ⟨hclk, hdio⟩ := not_or.mp hp
  cases clockFirst <;> simp [swdLevelsState, hclk, hdio] at h

end

/-! ### Pads (10_state R26) -/

/-- Switching a pin to output shows the latch it had (92 D24). -/
theorem pad_dirState_output (p : PinIdx) (s : State) :
    (dirState p .output s).pad p.toNat = s.level p.toNat :=
  (pad_of_driven (by simp)).trans (dirState_level p .output s p.toNat)

/-- What a level write makes of the pad of a driven pin. -/
theorem pad_levelState_of_driven {p : PinIdx} {s : State} {q : Nat} (b : Bool)
    (h : s.direction q = some .output) :
    (levelState p b s).pad q = if q = p.toNat then b else s.pad q := by
  have hq : (levelState p b s).direction q = some .output := by simpa using h
  rw [pad_of_driven hq, pad_of_driven h, levelState_level]

/-! ### The invariant at reset -/

/-- The parameters of the machine are in bounds, whatever the free ones are (00_scope R5). -/
theorem config_params_wf : Config.params.wf = true := by
  have hpins := Config.npinsLessOne.isLt
  have hkhz : BitVec.ofNat 32 (Config.khzResetLessOne.val + 1) ≠ 0#32 := by
    have hlt := Config.khzResetLessOne.isLt
    intro h
    have hval := congrArg BitVec.toNat h
    simp only [BitVec.toNat_ofNat] at hval
    omega
  have hlow : 1 ≤ Config.npinsLessOne.val + 1 := by omega
  have hhigh : Config.npinsLessOne.val + 1 ≤ 255 := by omega
  simpa [Params.wf, Config.params, hlow, hhigh] using hkhz

/-- The invariant does not read how many resets there were. -/
theorem SessionInv.with_epoch {s : State} (h : SessionInv s) (epoch : Nat) :
    SessionInv { s with epoch := epoch } :=
  have ⟨hreg, hpin⟩ := h
  ⟨{ hreg with }, { hpin with }⟩

/-- The first reset gives the same state as any later one, but for their number. -/
theorem reset_inv : SessionInv State.reset :=
  (applyReset_inv (s := State.reset) config_params_wf).with_epoch 0

end Sys2Proof.Machine
end

section
/-! SUPPORT. The statements of 10_state.md: the invariant, and who writes what. -/

namespace Sys2Proof.Proofs

open Sys2Proof Sys2Proof.Machine

/-- Settles O58: a step resets, waits, runs a command or answers an illegal word, and each keeps the
invariant. -/
theorem everyStepKeepsTheInvariant : Obligations.EveryStepKeepsTheInvariant := by
  unfold Obligations.EveryStepKeepsTheInvariant
  intro s t hs hstep
  exact step_keeps_sessionInv hs hstep

/-- Settles O20, by the row of `PA` in the table of R32. -/
theorem pinRegistersChangeOnlyBeforeInit : Obligations.PinRegistersChangeOnlyBeforeInit := by
  unfold Obligations.PinRegistersChangeOnlyBeforeInit
  intro i s t h hne
  exact (exec_written h).of_pa_ne hne

/-- Settles O21: the eleven commands are one `Config(sigs)`. -/
theorem configCommandsTouchNothingElse : Obligations.ConfigCommandsTouchNothingElse := by
  unfold Obligations.ConfigCommandsTouchNothingElse
  intro i sigs c s t hi h
  rw [exec_config s hi] at h
  exact config_frame h

/-- Settles O34, by the row of the bundles in the table of R32. -/
theorem bundlesChangeOnlyByInitAndQuit : Obligations.BundlesChangeOnlyByInitAndQuit := by
  unfold Obligations.BundlesChangeOnlyByInitAndQuit
  intro i s t h hne
  rcases (exec_written h).of_bundles_ne hne with hinit | ⟨rfl, responses, rfl⟩
  · exact .inl hinit
  · exact .inr ⟨rfl, rfl, rfl, quitState_slot s, rfl⟩

/-- Settles O37, from what `PinSetDir` and `PinSetLevel` do on a pin they can use. -/
theorem padShowsTheLatchWhileDriven : Obligations.PadShowsTheLatchWhileDriven := by
  unfold Obligations.PadShowsTheLatchWhileDriven
  intro p b s
  refine ⟨pad_of_driven, fun hc => ?_, fun hv => ?_, fun hundriven => ?_⟩
  · exact ⟨dirState p .output s, pinSetDir_of_ok (pinValid_of_outCapable hc) fun _ => hc,
      pad_dirState_output p s⟩
  · refine ⟨levelState p b s, pinSetLevel_of_valid hv, fun hp => ?_, fun q hq hdriven => ?_⟩
    · simp [pad_levelState_of_driven b hp]
    · simp [pad_levelState_of_driven b hdriven, hq]
  · rw [answerSample_of_undriven hundriven, pad_of_undriven hundriven]

/-- Settles O50: each writer changes a latch only through its own slots or pins, and every other
command keeps all of them. -/
theorem latchesChangeOnlyByTheirWriters : Obligations.LatchesChangeOnlyByTheirWriters := by
  unfold Obligations.LatchesChangeOnlyByTheirWriters
  intro i s t p h hne
  cases exec_completed h with
  | failed | query | set | quit | speedSet | speedGet | jtagRead | swdDrive | swdRead =>
    exact absurd rfl hne
  | initFailed s _ hl | initOk s hl => exact .inl ⟨rfl, hl⟩
  | jtagWrite s tck tms tdi =>
    obtain ⟨k, hk, hp⟩ := slot_of_bundleState_level_ne hne
    exact .inr (.inl ⟨⟨tck, tms, tdi, rfl⟩, k, (maskJtagWrite_bit k).mp hk, hp⟩)
  | jtagReset s trst srst =>
    exact .inr (.inr (.inl ⟨⟨trst, srst, rfl⟩, slot_of_jtagResetState_level_ne hne⟩))
  | jtagBlink s on =>
    obtain ⟨k, hk, hp⟩ := slot_of_bundleState_level_ne hne
    obtain rfl := (maskBlink_bit k).mp hk
    exact .inr (.inr (.inr (.inl ⟨⟨on, rfl⟩, hp⟩)))
  | swdWrite s swclk swdio =>
    exact .inr (.inr (.inr (.inr (.inl
      ⟨⟨swclk, swdio, rfl⟩, pin_of_swdLevelsState_level_ne hne⟩))))
  | swdBlink s on =>
    exact .inr (.inr (.inr (.inr (.inr ⟨⟨on, rfl⟩, pin_of_levelState_level_ne hne⟩))))

/-- Settles O51, by the rows of the registers in the table of R32. -/
theorem registersChangeOnlyByTheirWriters : Obligations.RegistersChangeOnlyByTheirWriters := by
  unfold Obligations.RegistersChangeOnlyByTheirWriters
  intro i s t h
  have hw := exec_written h
  exact ⟨hw.of_life_or_flags_ne, hw.of_khz_ne, hw.of_env_ne, hw.unwritten⟩

/-- Settles O57: reset asks only that the parameters are in bounds. -/
theorem resetMeetsTheInvariant : Obligations.ResetMeetsTheInvariant := by
  unfold Obligations.ResetMeetsTheInvariant
  exact reset_inv

end Sys2Proof.Proofs
end

section
/-! SUPPORT. The bundle primitives (spec 20_memory R44, R45) in the words of the statements: which
updates a bundle write makes, read slot by slot, and what a sample gives in every environment. -/

namespace Sys2Proof.Machine

open Sys2Proof Sys2Proof.Claims

/-! ### BundleWrite (20_memory R44) -/

/-- The slots a bundle write selects by its mask, each with its bit of the value. -/
def slotWrites (mask val : BitVec 6) : List (Fin 6 × Bool) :=
  ((List.finRange 6).filter fun i => mask.getLsbD i.val).map fun i => (i, val.getLsbD i.val)

@[simp] theorem mem_slotWrites {mask val : BitVec 6} {e : Fin 6 × Bool} :
    e ∈ slotWrites mask val ↔ mask.getLsbD e.1.val = true ∧ e.2 = val.getLsbD e.1.val := by
  obtain ⟨i, b⟩ := e
  simp [slotWrites, eq_comm (a := b)]

section
variable {s : State} {mask val : BitVec 6}

/-- A present slot's pin and bit are selected when the slot is among the writes. -/
theorem mem_selectedSlots_of_slotWrites {e : Fin 6 × Bool} (he : e ∈ slotWrites mask val)
    (hp : s.oslot[e.1] ≠ noPin) :
    (s.oslot[e.1].toNat, e.2) ∈ selectedSlots s.oslot mask val := by
  obtain ⟨hmask, hbit⟩ := mem_slotWrites.mp he
  exact mem_selectedSlots.mpr ⟨e.1, hmask, hp, by rw [hbit]⟩

/-- Whatever is selected comes from one of the writes, to a present slot. -/
theorem exists_slotWrites_of_mem_selectedSlots {x : Nat × Bool}
    (hx : x ∈ selectedSlots s.oslot mask val) :
    ∃ e ∈ slotWrites mask val, s.oslot[e.1] ≠ noPin ∧ x = (s.oslot[e.1].toNat, e.2) := by
  obtain ⟨i, hmask, hp, rfl⟩ := mem_selectedSlots.mp hx
  exact ⟨(i, val.getLsbD i.val), mem_slotWrites.mpr ⟨hmask, rfl⟩, hp, rfl⟩

theorem mem_bundleUpdates {p : Nat} {b : Bool} :
    (p, b) ∈ bundleUpdates s mask val ↔ PinMap.get (bundleUpdates s mask val) p = some b :=
  pinMap_mem_iff_get _ (bundleUpdates_wf s mask val) p b

/-- The event lists an update with the latch the pin has after it. -/
theorem bundleState_level_of_mem {p : Nat} {b : Bool} (h : (p, b) ∈ bundleUpdates s mask val) :
    (bundleState mask val s).level p = b := by
  rw [bundleState_level, mem_bundleUpdates.mp h]

/-- Where all the writes to a present slot's pin agree, the pin is updated to their bit. -/
theorem mem_bundleUpdates_of_agreeing {e : Fin 6 × Bool} (he : e ∈ slotWrites mask val)
    (hp : s.oslot[e.1] ≠ noPin)
    (hagree : ∀ e' ∈ slotWrites mask val, s.oslot[e'.1] = s.oslot[e.1] → e'.2 = e.2) :
    (s.oslot[e.1].toNat, e.2) ∈ bundleUpdates s mask val := by
  have hone : (s.oslot[e.1].toNat, !e.2) ∉ selectedSlots s.oslot mask val := by
    intro hopp
    obtain ⟨e', he', -, heq⟩ := exists_slotWrites_of_mem_selectedSlots hopp
    obtain ⟨hpin, hbit⟩ := Prod.mk.inj heq
    have hsame := hagree e' he' (BitVec.eq_of_toNat_eq hpin.symm)
    simp [hsame] at hbit
  exact mem_bundleUpdates.mpr
    (bundleUpdates_get_of_one (mem_selectedSlots_of_slotWrites he hp) hone)

/-- Where two writes to a present slot's pin differ, the pin is updated to the free value (93 U7). -/
theorem mem_bundleUpdates_of_conflicting {e e' : Fin 6 × Bool} (he : e ∈ slotWrites mask val)
    (he' : e' ∈ slotWrites mask val) (hp : s.oslot[e.1] ≠ noPin)
    (hpin : s.oslot[e'.1] = s.oslot[e.1]) (hbits : e'.2 ≠ e.2) :
    (s.oslot[e.1].toNat, Config.sharedPinLevel s.epoch s.trace s.oslot[e.1].toNat) ∈
      bundleUpdates s mask val := by
  have hsel := mem_selectedSlots_of_slotWrites he hp
  have hsel' := mem_selectedSlots_of_slotWrites he' (hpin ▸ hp)
  rw [hpin, Bool.eq_not.mpr hbits] at hsel'
  apply mem_bundleUpdates.mpr
  cases hbit : e.2 with
  | false => exact bundleUpdates_get_of_both (hbit ▸ hsel) (by simpa [hbit] using hsel')
  | true => exact bundleUpdates_get_of_both (by simpa [hbit] using hsel') (hbit ▸ hsel)

/-- A pin that no write reaches is not updated. -/
theorem bundleUpdates_get_of_unwritten {p : Nat}
    (h : ∀ e ∈ slotWrites mask val, s.oslot[e.1] ≠ noPin → s.oslot[e.1].toNat ≠ p) :
    PinMap.get (bundleUpdates s mask val) p = none := by
  refine bundleUpdates_get_none fun x hx => ?_
  obtain ⟨e, he, hp, rfl⟩ := exists_slotWrites_of_mem_selectedSlots hx
  exact h e he hp

/-- A bundle write is one atomic write of the slots its mask selects. -/
theorem bundleState_oneBundleWrite (mask val : BitVec 6) (s : State) :
    OneBundleWrite s (bundleState mask val s) (slotWrites mask val)
      (bundleUpdates s mask val) := by
  refine ⟨fun e he hp hagree => ?_, fun e he e' he' hp hpin hbits => ?_, fun p hno => ?_,
    fun e he => bundleState_level_of_mem he⟩
  · have hmem := mem_bundleUpdates_of_agreeing he hp hagree
    exact ⟨bundleState_level_of_mem hmem, hmem⟩
  · have hmem := mem_bundleUpdates_of_conflicting he he' hp hpin hbits
    exact ⟨bundleState_level_of_mem hmem, hmem⟩
  · have hnone := bundleUpdates_get_of_unwritten hno
    exact ⟨by rw [bundleState_level, hnone], fun b => by simp [mem_bundleUpdates, hnone]⟩

end

/-! ### Samples (20_memory R43, R45) -/

/-- The free draw of a sample: of the driven pin's own value, else of ENV's. -/
theorem freeSample_eq (s : State) (p : Nat) :
    freeSample s p =
      if s.direction p = some .output then Config.drivenRead s.epoch s.trace p
      else Config.padIn s.epoch s.trace p := by
  unfold freeSample
  split <;> simp [*]

/-- A sample answers as its environment says, whatever that is. -/
theorem answerSample_gives (s : State) (p : Nat) :
    SampleGives s p (answerSample s p).1 (answerSample s p).2 := by
  refine ⟨fun henv => ?_, fun x rest henv => ?_, fun henv => ?_⟩
  · simp [answerSample_loopback s p henv]
  · simp [answerSample, henv]
  · rcases henv with henv | henv <;> simp [answerSample, henv, freeSample_eq]

/-- The answer to a read: the sample in bit 0, the other bits of the data 0 (92 D45). -/
theorem responseWord_ok_zext32 (b : Bool) :
    responseWord .ok (zext32 b) = if b then 0x0000000001 else 0x0000000000 := by
  cases b <;> rfl

/-- JTAG_READ in a JTAG session whose input bundle is allocated. -/
theorem exec_jtagRead_of_available {s : State} (ha : jtagAvailable s = true)
    (hi : s.ibAlloc = true) :
    exec .jtagRead s = .next (respond .ok (zext32 (answerSample s s.islot.toNat).1)
      { s with
        env := (answerSample s s.islot.toNat).2
        trace := s.trace ++ [.smp s.islot.toNat (answerSample s s.islot.toNat).1] }) := by
  change execJtagRead s = _
  rw [execJtagRead_eq, if_pos ha, if_pos hi]

end Sys2Proof.Machine
end

section
/-! SUPPORT. The statements of 20_memory.md: the write of the output bundle, the read of the input
bundle. -/

namespace Sys2Proof.Proofs

open Sys2Proof Sys2Proof.Machine

/-- Settles O38: the updates of the event are the selected present slots' pins, each with the latch
it then has. -/
theorem bundleWriteUpdatesSelectedSlotsAtOnce :
    Obligations.BundleWriteUpdatesSelectedSlotsAtOnce := by
  unfold Obligations.BundleWriteUpdatesSelectedSlotsAtOnce
  intro mask val s ho
  exact ⟨bundleState mask val s, bundleUpdates s mask val, bundleWrite_of_alloc ho, rfl,
    bundleState_oneBundleWrite mask val s, rfl⟩

/-- Settles O40: the command's answer is the sample of the input slot, which every environment
gives. -/
theorem jtagReadSamplesTheInputSlot : Obligations.JtagReadSamplesTheInputSlot := by
  unfold Obligations.JtagReadSamplesTheInputSlot
  intro s hl hj hi
  refine ⟨_, _, answerSample_gives s s.islot.toNat, ?_⟩
  rw [exec_jtagRead_of_available (jtagAvailable_iff.mpr ⟨hl, hj⟩) hi, respond,
    responseWord_ok_zext32]

end Sys2Proof.Proofs
end

section
/-! SUPPORT. The decoder and the encoder say the same (spec 30_encoding R60, R61, R65 to R67): a word
decodes to a command exactly when its three fields are the command's, and a row of the opcode table
selects exactly the words that decode to that row's command. -/

namespace Sys2Proof

open Sys2Proof.Laws Sys2Proof.Machine Sys2Proof.Claims

/-! ### Bits from a place up -/

/-- A word shifted down by `n` is zero when its bits from `n` up are. -/
theorem ushiftRight_eq_zero_iff {width n : Nat} {x : BitVec width} :
    x >>> n = 0 ↔ ∀ k, n ≤ k → x.getLsbD k = false := by
  constructor
  · intro h k hk
    have hbit := congrArg (fun y => y.getLsbD (k - n)) h
    simpa [Nat.add_sub_cancel' hk] using hbit
  · intro h
    apply BitVec.eq_of_getLsbD_eq
    intro k _
    simpa using h (n + k) (Nat.le_add_right n k)

theorem ushiftRight_eq_zero_mono {width n m : Nat} {x : BitVec width} (h : x >>> n = 0)
    (hnm : n ≤ m) : x >>> m = 0 :=
  ushiftRight_eq_zero_iff.mpr fun k hk => ushiftRight_eq_zero_iff.mp h k (hnm.trans hk)

/-- A mask of the bits from `n` up finds none set. -/
theorem and_allOnes_shiftLeft_eq_zero_iff {width n : Nat} {x : BitVec width} :
    x &&& BitVec.allOnes width <<< n = 0 ↔ x >>> n = 0 := by
  rw [ushiftRight_eq_zero_iff]
  constructor
  · intro h k hk
    by_cases hw : k < width
    · have hbit := congrArg (fun y => y.getLsbD k) h
      simpa [hw, Nat.not_lt.mpr hk, show k - n < width by omega] using hbit
    · exact BitVec.getLsbD_of_ge x k (Nat.not_lt.mp hw)
  · intro h
    apply BitVec.eq_of_getLsbD_eq
    intro k _
    by_cases hk : n ≤ k
    · simp [h k hk]
    · simp [Nat.not_le.mp hk]

/-! ### The fields of a word (R60) -/

/-- The three fields are the whole word. -/
theorem commandWord_fields (w : CmdWord) :
    commandWord (opcodeField w) (argcField w) (argField w) = w := by
  unfold commandWord opcodeField argcField argField
  rw [BitVec.extractLsb'_append_extractLsb'_eq_extractLsb' (by decide : 40 = 32 + 8)]
  exact BitVec.extractLsb'_append_extractLsb'

theorem commandWord_inj {code code' argc argc' : BitVec 8} {arg arg' : BitVec 32} :
    commandWord code argc arg = commandWord code' argc' arg' ↔
      code = code' ∧ argc = argc' ∧ arg = arg' := by
  constructor
  · intro h
    refine ⟨?_, ?_, ?_⟩
    · simpa only [opcodeField_commandWord] using congrArg opcodeField h
    · simpa only [argcField_commandWord] using congrArg argcField h
    · simpa only [argField_commandWord] using congrArg argField h
  · rintro ⟨rfl, rfl, rfl⟩
    rfl

theorem encode_eq_iff {i : Instr} {w : CmdWord} :
    encode i = w ↔ i.op.code = opcodeField w ∧ i.argc = argcField w ∧ i.arg = argField w := by
  rw [encode, ← commandWord_inj, commandWord_fields]

theorem getLsbD_argField (w : CmdWord) {k : Nat} (hk : k < 32) :
    (argField w).getLsbD k = w.getLsbD k := by
  simp [argField, hk]

/-! ### The operands of format C (R61, R64) -/

theorem configArgs_argBytes (c : CfgArgs) : configArgs c.argc (argBytes c) = c := by
  obtain ⟨argc, a0, a1, a2, a3⟩ := c
  have h0 : (a0 ++ a1 ++ a2 ++ a3).extractLsb' 24 8 = a0 := by
    rw [BitVec.extractLsb'_append_eq_of_le (by decide),
      BitVec.extractLsb'_append_eq_of_le (by decide)]
    exact BitVec.extractLsb'_append_eq_left
  have h1 : (a0 ++ a1 ++ a2 ++ a3).extractLsb' 16 8 = a1 := by
    rw [BitVec.extractLsb'_append_eq_of_le (by decide),
      BitVec.extractLsb'_append_eq_of_le (by decide)]
    exact BitVec.extractLsb'_append_eq_right
  have h2 : (a0 ++ a1 ++ a2 ++ a3).extractLsb' 8 8 = a2 := by
    rw [BitVec.extractLsb'_append_eq_of_le (by decide)]
    exact BitVec.extractLsb'_append_eq_right
  have h3 : (a0 ++ a1 ++ a2 ++ a3).extractLsb' 0 8 = a3 := BitVec.extractLsb'_append_eq_right
  exact (CfgArgs.mk.injEq ..).mpr ⟨rfl, h0, h1, h2, h3⟩

theorem argBytes_configArgs (argc : BitVec 8) (arg : BitVec 32) :
    argBytes (configArgs argc arg) = arg := by
  unfold argBytes configArgs
  rw [BitVec.extractLsb'_append_extractLsb'_eq_extractLsb' (by decide : 24 = 16 + 8),
    BitVec.extractLsb'_append_extractLsb'_eq_extractLsb' (by decide : 16 = 8 + 8)]
  exact BitVec.extractLsb'_append_extractLsb'

/-! ### The operands of format B (R65) -/

theorem argBits_shiftRight_three :
    ∀ b2 b1 b0 : Bool, argBits b2 b1 b0 >>> 3 = 0 := by decide

theorem argBits_shiftRight_two : ∀ b1 b0 : Bool, argBits false b1 b0 >>> 2 = 0 := by decide

theorem argBits_shiftRight_one : ∀ b0 : Bool, argBits false false b0 >>> 1 = 0 := by decide

@[simp] theorem argBits_getElem_zero :
    ∀ b2 b1 b0 : Bool, (argBits b2 b1 b0)[0] = b0 := by decide

@[simp] theorem argBits_getElem_one :
    ∀ b2 b1 b0 : Bool, (argBits b2 b1 b0)[1] = b1 := by decide

@[simp] theorem argBits_getElem_two :
    ∀ b2 b1 b0 : Bool, (argBits b2 b1 b0)[2] = b2 := by decide

/-- The bundle value of JTAG_WRITE is `arg[2:0]` unchanged. -/
theorem jtagWriteValue_eq_argBits : ∀ tck tms tdi : Bool,
    jtagWriteValue tck tms tdi = ((argBits tms tdi tck).extractLsb' 0 3).setWidth 6 := by decide

/-- An argument with no bit beyond the three operand places is made of them. -/
theorem argBits_of_bits {arg : BitVec 32} {b2 b1 b0 : Bool} (h : arg >>> 3 = 0)
    (h2 : arg.getLsbD 2 = b2) (h1 : arg.getLsbD 1 = b1) (h0 : arg.getLsbD 0 = b0) :
    argBits b2 b1 b0 = arg := by
  have harg := ushiftRight_eq_zero_iff.mp h
  have hbits := ushiftRight_eq_zero_iff.mp (argBits_shiftRight_three b2 b1 b0)
  apply BitVec.eq_of_getLsbD_eq
  intro k _
  match k with
  | 0 => simpa using h0.symm
  | 1 => simpa using h1.symm
  | 2 => simpa using h2.symm
  | k + 3 => rw [hbits _ (by omega), harg _ (by omega)]

/-! ### The decoder row by row -/

theorem lowBits_eq_ok_iff {n : Nat} {argc : BitVec 8} {arg : BitVec 32} {i j : Instr} :
    lowBits n argc arg i = .ok j ↔ argc = 0 ∧ arg >>> n = 0 ∧ i = j := by
  unfold lowBits
  split_ifs <;> simp_all

theorem wholeArg_eq_ok_iff {argc : BitVec 8} {i j : Instr} :
    wholeArg argc i = .ok j ↔ argc = 0 ∧ i = j := by
  unfold wholeArg
  split_ifs <;> simp_all

/-- A command's own row decodes its two fields to it. -/
theorem decodeFields_op_argc_arg (i : Instr) : decodeFields i.op i.argc i.arg = .ok i := by
  cases i with
  | jtagPins c | jtagPinTck c | jtagPinTms c | jtagPinTdi c | jtagPinTdo c | jtagPinTrst c
  | jtagPinSrst c | jtagPinBlink c | swdPins c | swdPinSwclk c | swdPinSwdio c =>
    simp only [decodeFields, Instr.op, Instr.argc, Instr.arg, configArgs_argBytes]
  | init | quit | speedSet | speedGet | jtagRead | swdRead => rfl
  | jtagWrite tck tms tdi =>
    exact lowBits_eq_ok_iff.mpr ⟨rfl, argBits_shiftRight_three tms tdi tck, by simp [Instr.arg]⟩
  | jtagReset b0 b1 | swdWrite b0 b1 =>
    exact lowBits_eq_ok_iff.mpr ⟨rfl, argBits_shiftRight_two b1 b0, by simp [Instr.arg]⟩
  | jtagBlink b0 | swdDrive b0 | swdBlink b0 =>
    exact lowBits_eq_ok_iff.mpr ⟨rfl, argBits_shiftRight_one b0, by simp [Instr.arg]⟩

/-- What a row decodes keeps the row and both fields, so no bit is dropped. -/
theorem fields_of_decodeFields {o : Op} {argc : BitVec 8} {arg : BitVec 32} {i : Instr}
    (h : decodeFields o argc arg = .ok i) : i.op = o ∧ i.argc = argc ∧ i.arg = arg := by
  cases o with
  | jtagPins | jtagPinTck | jtagPinTms | jtagPinTdi | jtagPinTdo | jtagPinTrst | jtagPinSrst
  | jtagPinBlink | swdPins | swdPinSwclk | swdPinSwdio =>
    cases h
    exact ⟨rfl, rfl, argBytes_configArgs argc arg⟩
  | init | quit | speedGet | jtagRead | swdRead =>
    obtain ⟨rfl, hzero, rfl⟩ := lowBits_eq_ok_iff.mp h
    exact ⟨rfl, rfl, by simpa [Instr.arg] using hzero.symm⟩
  | speedSet =>
    obtain ⟨rfl, rfl⟩ := wholeArg_eq_ok_iff.mp h
    exact ⟨rfl, rfl, rfl⟩
  | jtagWrite =>
    obtain ⟨rfl, hzero, rfl⟩ := lowBits_eq_ok_iff.mp h
    exact ⟨rfl, rfl, argBits_of_bits hzero rfl rfl rfl⟩
  | jtagReset | swdWrite =>
    obtain ⟨rfl, hzero, rfl⟩ := lowBits_eq_ok_iff.mp h
    have hbits := ushiftRight_eq_zero_iff.mp hzero
    exact ⟨rfl, rfl, argBits_of_bits (ushiftRight_eq_zero_mono hzero (by decide))
      (hbits 2 le_rfl) rfl rfl⟩
  | jtagBlink | swdDrive | swdBlink =>
    obtain ⟨rfl, hzero, rfl⟩ := lowBits_eq_ok_iff.mp h
    have hbits := ushiftRight_eq_zero_iff.mp hzero
    exact ⟨rfl, rfl, argBits_of_bits (ushiftRight_eq_zero_mono hzero (by decide))
      (hbits 2 (by decide)) (hbits 1 le_rfl) rfl⟩

theorem decode_of_opcodeField {w : CmdWord} {o : Op} (h : o.code = opcodeField w) :
    decode w = decodeFields o (argcField w) (argField w) := by
  rw [decode, ← h, ofCode_code]

/-- Decoding and encoding are the same relation between words and commands. -/
theorem decode_eq_ok_iff {w : CmdWord} {i : Instr} : decode w = .ok i ↔ encode i = w := by
  rw [encode_eq_iff]
  constructor
  · intro h
    unfold decode at h
    split at h
    · rename_i o ho
      obtain ⟨rfl, hargc, harg⟩ := fields_of_decodeFields h
      exact ⟨code_of_ofCode ho, hargc, harg⟩
    · cases h
  · rintro ⟨hcode, hargc, harg⟩
    rw [decode_of_opcodeField hcode, ← hargc, ← harg, decodeFields_op_argc_arg]

/-- The low bits of a legal word are its command's argument. -/
theorem argField_of_decode {w : CmdWord} {i : Instr} (h : decode w = .ok i) :
    argField w = i.arg := by
  obtain ⟨-, -, harg⟩ := encode_eq_iff.mp (decode_eq_ok_iff.mp h)
  exact harg.symm

/-! ### The bit operands in the word (R65) -/

theorem getLsbD_eq_false_of_argField {w : CmdWord} {n : Nat} (h : argField w >>> n = 0) (k : Nat)
    (hk : n ≤ k) (h32 : k < 32) : w.getLsbD k = false := by
  rw [← getLsbD_argField w h32]
  exact ushiftRight_eq_zero_iff.mp h k hk

theorem bits_of_argField {w : CmdWord} {b2 b1 b0 : Bool} (h : argField w = argBits b2 b1 b0) :
    b0 = w.getLsbD 0 ∧ b1 = w.getLsbD 1 ∧ b2 = w.getLsbD 2 := by
  have hbit : ∀ k < 32, (argBits b2 b1 b0).getLsbD k = w.getLsbD k := fun k hk => by
    rw [← h, getLsbD_argField w hk]
  exact ⟨by simpa using hbit 0 (by decide), by simpa using hbit 1 (by decide),
    by simpa using hbit 2 (by decide)⟩

/-! ### The opcode table (R67, R68) -/

/-- The formats of R61: C; N and B with the number of their operand bits; S. -/
inductive WordFormat where
  | config
  | lowBits (n : Nat)
  | wholeArg

/-- The format column of R67. -/
def Op.format : Op → WordFormat
  | .jtagPins | .jtagPinTck | .jtagPinTms | .jtagPinTdi | .jtagPinTdo | .jtagPinTrst
  | .jtagPinSrst | .jtagPinBlink | .swdPins | .swdPinSwclk | .swdPinSwdio => .config
  | .init | .quit | .speedGet | .jtagRead | .swdRead => .lowBits 0
  | .jtagBlink | .swdDrive | .swdBlink => .lowBits 1
  | .jtagReset | .swdWrite => .lowBits 2
  | .jtagWrite => .lowBits 3
  | .speedSet => .wholeArg

/-- What a format asks of the two fields below the opcode (R61). -/
def WordFormat.Admits : WordFormat → BitVec 8 → BitVec 32 → Prop
  | .config, _, _ => True
  | .lowBits n, argc, arg => argc = 0 ∧ arg >>> n = 0
  | .wholeArg, argc, _ => argc = 0

/-- The mask of a format: the opcode, and every bit that must be 0. -/
def WordFormat.mask : WordFormat → CmdWord
  | .config => commandWord (BitVec.allOnes 8) 0 0
  | .lowBits n => commandWord (BitVec.allOnes 8) (BitVec.allOnes 8) (BitVec.allOnes 32 <<< n)
  | .wholeArg => commandWord (BitVec.allOnes 8) (BitVec.allOnes 8) 0

/-- An operation's row: the one at its place in the order of R67. -/
def Op.row (o : Op) : OpRow := opcodeTable[Op.all.idxOf o]'(by cases o <;> decide)

theorem opcodeTable_eq_map_row : opcodeTable = Op.all.map Op.row := by decide

theorem row_mask (o : Op) : o.row.mask = o.format.mask := by cases o <;> rfl

theorem row_bits (o : Op) : o.row.bits = commandWord o.code 0 0 := by cases o <;> rfl

theorem row_mnemonic (i : Instr) : i.op.row.mnemonic = mnemonicOf i := by cases i <;> rfl

/-- A row decodes the fields its format admits (R61, R68). -/
theorem decodeFields_isOk_iff (o : Op) (argc : BitVec 8) (arg : BitVec 32) :
    (∃ i, decodeFields o argc arg = .ok i) ↔ o.format.Admits argc arg := by
  cases o <;>
    simp [decodeFields, Op.format, WordFormat.Admits, lowBits_eq_ok_iff, wholeArg_eq_ok_iff]

theorem commandWord_and_commandWord (code code' argc argc' : BitVec 8) (arg arg' : BitVec 32) :
    commandWord code argc arg &&& commandWord code' argc' arg' =
      commandWord (code &&& code') (argc &&& argc') (arg &&& arg') :=
  BitVec.and_append.trans (congrArg (· ++ _) BitVec.and_append)

theorem and_commandWord (w : CmdWord) (code argc : BitVec 8) (arg : BitVec 32) :
    w &&& commandWord code argc arg =
      commandWord (opcodeField w &&& code) (argcField w &&& argc) (argField w &&& arg) := by
  rw [← commandWord_and_commandWord, commandWord_fields]

/-- Masked equality is the opcode and what the format asks. -/
theorem and_mask_eq_iff (f : WordFormat) (w : CmdWord) (code : BitVec 8) :
    w &&& f.mask = commandWord code 0 0 ↔
      opcodeField w = code ∧ f.Admits (argcField w) (argField w) := by
  have hmask (argc : BitVec 8) (arg : BitVec 32) :
      w &&& commandWord (BitVec.allOnes 8) argc arg = commandWord code 0 0 ↔
        opcodeField w = code ∧ argcField w &&& argc = 0 ∧ argField w &&& arg = 0 := by
    rw [and_commandWord, commandWord_inj, BitVec.and_allOnes]
  cases f with
  | config => simpa [WordFormat.mask, WordFormat.Admits] using hmask 0 0
  | lowBits n =>
    rw [WordFormat.mask, hmask, BitVec.and_allOnes, and_allOnes_shiftLeft_eq_zero_iff,
      WordFormat.Admits]
  | wholeArg =>
    rw [WordFormat.mask, hmask, BitVec.and_allOnes]
    simp [WordFormat.Admits]

/-- A word selects a row exactly when it decodes to that row's command. -/
theorem row_selects_iff (o : Op) (w : CmdWord) :
    w &&& o.row.mask = o.row.bits ↔ ∃ i, decode w = .ok i ∧ i.op = o := by
  rw [row_mask, row_bits, and_mask_eq_iff, ← decodeFields_isOk_iff]
  constructor
  · rintro ⟨hcode, i, hi⟩
    exact ⟨i, (decode_of_opcodeField hcode.symm).trans hi, (fields_of_decodeFields hi).1⟩
  · rintro ⟨i, hi, rfl⟩
    obtain ⟨hcode, -⟩ := encode_eq_iff.mp (decode_eq_ok_iff.mp hi)
    exact ⟨hcode.symm, i, (decode_of_opcodeField hcode).symm.trans hi⟩

/-- Every row stands in the table once. -/
theorem all_filter_eq (o : Op) : Op.all.filter (fun x => x == o) = [o] := by
  cases o <;> decide

theorem selectedRows_of_ok {w : CmdWord} {i : Instr} (h : decode w = .ok i) :
    opcodeTable.filter (fun r => (w &&& r.mask) == r.bits) = [i.op.row] := by
  have hrow : (fun r : OpRow => (w &&& r.mask) == r.bits) ∘ Op.row = fun o => o == i.op := by
    funext o
    rw [Bool.eq_iff_iff]
    simpa [row_selects_iff, h] using eq_comm
  rw [opcodeTable_eq_map_row, List.filter_map, hrow, all_filter_eq, List.map_singleton]

theorem selectedRows_of_error {w : CmdWord} {why : Illegal} (h : decode w = .error why) :
    opcodeTable.filter (fun r => (w &&& r.mask) == r.bits) = [] := by
  rw [opcodeTable_eq_map_row, List.filter_eq_nil_iff]
  intro r hr
  obtain ⟨o, -, rfl⟩ := List.mem_map.mp hr
  simp [row_selects_iff, h]

end Sys2Proof
end

section
/-! SUPPORT. What a command answers (spec 30_encoding R62, R63), and that TRACE only grows (20_memory
R52). -/

namespace Sys2Proof.Machine

open Sys2Proof Sys2Proof.Claims

/-! ### The response word (30_encoding R62 to R64) -/

@[simp] theorem statusByte_responseWord (st : Status) (d : BitVec 32) :
    statusByte (responseWord st d) = st.code := BitVec.extractLsb'_append_eq_left

theorem responseWord_data (st : Status) (d : BitVec 32) :
    (responseWord st d).extractLsb' 0 32 = d := BitVec.extractLsb'_append_eq_right

theorem status_code_injective : ∀ st st' : Status, st.code = st'.code → st = st' := by
  intro st st'
  cases st <;> cases st' <;> decide

theorem packPins_four (a b c d : PinIdx) : packPins [a, b, c, d] = a ++ b ++ c ++ d := rfl

theorem toNat_append_zero_append_zero {n p q : Nat} (x : BitVec n) :
    (x ++ 0#p ++ 0#q).toNat = (x ++ 0#(p + q)).toNat := by
  simp [BitVec.toNat_append, Nat.shiftLeft_add]

theorem packPins_two (a b : PinIdx) : packPins [a, b] = a ++ b ++ (0 : BitVec 16) :=
  BitVec.eq_of_toNat_eq (toNat_append_zero_append_zero (a ++ b))

theorem packPins_one (a : PinIdx) : packPins [a] = a ++ (0 : BitVec 24) :=
  BitVec.eq_of_toNat_eq ((toNat_append_zero_append_zero (a ++ 0#8)).trans
    (toNat_append_zero_append_zero a))

/-! ### The statuses of a command (30_encoding R63) -/

theorem ok_mem_possibleStatuses (i : Instr) : Status.ok.code ∈ possibleStatuses i := by
  cases i <;> exact List.mem_cons_self

theorem possibleStatuses_of_config {i : Instr} {x : List Signal × CfgArgs}
    (h : configCommand i = some x) : possibleStatuses i = [0x00, 0x01, 0x05] := by
  cases i with
  | jtagPins | jtagPinTck | jtagPinTms | jtagPinTdi | jtagPinTdo | jtagPinTrst | jtagPinSrst
  | jtagPinBlink | swdPins | swdPinSwclk | swdPinSwdio => rfl
  | _ => cases h

theorem unavailable_mem_possibleStatuses {i : Instr} (hq : i ≠ .quit) (hg : i ≠ .speedGet)
    (hs : ∀ k, i ≠ .speedSet k) : Status.errUnavailable.code ∈ possibleStatuses i := by
  cases i with
  | quit => exact absurd rfl hq
  | speedGet => exact absurd rfl hg
  | speedSet k => exact absurd rfl (hs k)
  | _ => simp [possibleStatuses, Status.code]

/-- An error is one R63 lists for the command. -/
theorem FailsWith.mem_possibleStatuses {i : Instr} {s : State} {e : Status} {d : BitVec 32}
    (h : FailsWith i s e d) : e.code ∈ possibleStatuses i := by
  cases e with
  | ok | errResource | errIllegal => exact h.elim
  | errSyntax =>
    obtain ⟨-, sigs, c, hcfg, -⟩ := h
    rw [possibleStatuses_of_config hcfg]
    decide
  | errValidation =>
    obtain ⟨rfl, -⟩ := h
    decide
  | errUnsupportedSpeed =>
    obtain ⟨-, rfl⟩ := h
    decide
  | errUnavailable =>
    obtain ⟨-, hq, hg, hs⟩ := h
    exact unavailable_mem_possibleStatuses hq hg hs

/-! ### Answers and TRACE stay (20_memory R52) -/

/-- `t` has the responses of `s`, and its trace with events added. -/
structure OnlyAddsEvents (s t : State) : Prop where
  responses : t.responses = s.responses
  trace : s.trace <+: t.trace

theorem OnlyAddsEvents.refl (s : State) : OnlyAddsEvents s s := ⟨rfl, List.prefix_rfl⟩

section
variable {s t : State}

theorem OnlyAddsEvents.trans {u : State} (h : OnlyAddsEvents s t) (h' : OnlyAddsEvents t u) :
    OnlyAddsEvents s u :=
  ⟨h'.responses.trans h.responses, h.trace.trans h'.trace⟩

theorem OnlyAddsEvents.then_setOut (h : OnlyAddsEvents s t) (p : PinIdx) (b : Bool) :
    OnlyAddsEvents s (setOutState p b t) :=
  h.trans ⟨rfl, List.prefix_append _ _⟩

theorem OnlyAddsEvents.then_setDir (h : OnlyAddsEvents s t) (p : PinIdx) (d : Drive) :
    OnlyAddsEvents s (dirState p d t) :=
  h.trans ⟨rfl, List.prefix_append _ _⟩

theorem OnlyAddsEvents.then_setLevel (h : OnlyAddsEvents s t) (p : PinIdx) (b : Bool) :
    OnlyAddsEvents s (levelState p b t) :=
  h.trans ⟨rfl, List.prefix_append _ _⟩

theorem OnlyAddsEvents.then_bundleWrite (h : OnlyAddsEvents s t) (mask val : BitVec 6) :
    OnlyAddsEvents s (bundleState mask val t) :=
  h.trans ⟨rfl, List.prefix_append _ _⟩

theorem OnlyAddsEvents.then_delay (h : OnlyAddsEvents s t) : OnlyAddsEvents s (applyDelay t) :=
  h.trans ⟨rfl, List.prefix_append _ _⟩

theorem OnlyAddsEvents.then_line (h : OnlyAddsEvents s t) (sig : Signal) (mask val : BitVec 6) :
    OnlyAddsEvents s (lineState sig mask val t) := by
  unfold lineState
  split
  · exact h.then_bundleWrite mask val
  · exact h

theorem OnlyAddsEvents.then_jtagPins (h : OnlyAddsEvents s t) :
    OnlyAddsEvents s (jtagPinsState t) :=
  ((h.then_setOut _ _).then_setOut _ _).then_setOut _ _

theorem OnlyAddsEvents.then_jtagPart (h : OnlyAddsEvents s t) (j : Bool) :
    OnlyAddsEvents s (jtagPart j t) := by
  cases j with
  | false => exact h
  | true => exact h.then_jtagPins.trans ⟨rfl, List.prefix_append _ _⟩

theorem OnlyAddsEvents.then_swdPart (h : OnlyAddsEvents s t) (w : Bool) :
    OnlyAddsEvents s (swdPart w t) := by
  cases w with
  | false => exact h
  | true => exact (h.then_setOut _ _).then_setOut _ _

theorem OnlyAddsEvents.then_optional (h : OnlyAddsEvents s t) (p : PinIdx) (b : Bool) :
    OnlyAddsEvents s (optionalState p b t) := by
  unfold optionalState
  split
  · exact h
  · exact h.then_setOut p b

theorem OnlyAddsEvents.then_optionalPins (h : OnlyAddsEvents s t) :
    OnlyAddsEvents s (optionalPinsState t) :=
  ((h.then_optional _ _).then_optional _ _).then_optional _ _

end

/-- INIT has passed the validator and touched no pin yet (44_lifecycle R144). -/
theorem validated_onlyAddsEvents (s : State) : OnlyAddsEvents s { s with life := .validated } :=
  ⟨rfl, List.prefix_rfl⟩

theorem initState_onlyAddsEvents (j w : Bool) (s : State) :
    OnlyAddsEvents s (initState j w s) := by
  have hpins := (((validated_onlyAddsEvents s).then_jtagPart j).then_swdPart w).then_optionalPins
  exact ⟨hpins.responses, hpins.trace⟩

theorem failedState_onlyAddsEvents (s : State) :
    OnlyAddsEvents s (failedState (jtagPinsState { s with life := .validated })) := by
  have hpins := (validated_onlyAddsEvents s).then_jtagPins
  exact ⟨hpins.responses, hpins.trace⟩

theorem swdLevelsState_onlyAddsEvents (clockFirst swclk swdio : Bool) (s : State) :
    OnlyAddsEvents s (swdLevelsState clockFirst swclk swdio s) := by
  cases clockFirst <;> exact ((OnlyAddsEvents.refl s).then_setLevel _ _).then_setLevel _ _

/-- A command that completes adds events, and then answers once. -/
theorem completed_responds {i : Instr} {s t : State} (h : Completed i s t) :
    ∃ st d u, t = respond st d u ∧ st.code ∈ possibleStatuses i ∧ OnlyAddsEvents s u := by
  have hok := ok_mem_possibleStatuses i
  have hrefl := OnlyAddsEvents.refl s
  cases h with
  | failed i s e d hwhy => exact ⟨_, _, _, rfl, hwhy.mem_possibleStatuses, hrefl⟩
  | query | set | quit | speedSet | speedGet =>
    exact ⟨_, _, _, rfl, hok, rfl, List.prefix_rfl⟩
  | initFailed => exact ⟨_, _, _, rfl, by decide, failedState_onlyAddsEvents s⟩
  | initOk => exact ⟨_, _, _, rfl, hok, initState_onlyAddsEvents _ _ s⟩
  | jtagWrite => exact ⟨_, _, _, rfl, hok, (hrefl.then_bundleWrite _ _).then_delay⟩
  | jtagReset => exact ⟨_, _, _, rfl, hok, (hrefl.then_line _ _ _).then_line _ _ _⟩
  | jtagBlink => exact ⟨_, _, _, rfl, hok, hrefl.then_bundleWrite _ _⟩
  | swdDrive => exact ⟨_, _, _, rfl, hok, hrefl.then_setDir _ _⟩
  | swdWrite => exact ⟨_, _, _, rfl, hok, (swdLevelsState_onlyAddsEvents _ _ _ s).then_delay⟩
  | swdBlink => exact ⟨_, _, _, rfl, hok, hrefl.then_setLevel _ _⟩
  | jtagRead | swdRead => exact ⟨_, _, _, rfl, hok, rfl, List.prefix_append _ _⟩

end Sys2Proof.Machine
end

section
/-! SUPPORT. The statements of 30_encoding.md: the command word, the opcode table, the response. -/

namespace Sys2Proof.Proofs

open Sys2Proof Sys2Proof.Machine Sys2Proof.Claims

/-- Settles O1: decoding is the inverse relation of encoding. -/
theorem decodeInvertsEncode : Obligations.DecodeInvertsEncode := by
  unfold Obligations.DecodeInvertsEncode
  intro i
  exact decode_eq_ok_iff.mpr rfl

/-- Settles O2, by the same equivalence. -/
theorem encodeInvertsDecode : Obligations.EncodeInvertsDecode := by
  unfold Obligations.EncodeInvertsDecode
  intro w i h
  exact decode_eq_ok_iff.mp h

/-- Settles O3: a row selects the words that decode to its command, and each row stands in the table
once. -/
theorem decoderAgreesWithOpcodeTable : Obligations.DecoderAgreesWithOpcodeTable := by
  unfold Obligations.DecoderAgreesWithOpcodeTable
  intro w
  refine ⟨fun i h => ?_, fun why h => selectedRows_of_error h⟩
  rw [selectedRows_of_ok h, List.map_singleton, row_mnemonic]

/-- Settles O4: the low 32 bits of a legal word are its command's argument. -/
theorem bitOperandsHaveTheirPlaces : Obligations.BitOperandsHaveTheirPlaces := by
  unfold Obligations.BitOperandsHaveTheirPlaces
  intro w zeroFrom
  have hzero {n : Nat} {arg : BitVec 32} (harg : argField w = arg) (h : arg >>> n = 0) :
      zeroFrom n := getLsbD_eq_false_of_argField (harg ▸ h)
  refine ⟨fun tck tms tdi h => ?_, fun trst srst h => ?_, fun on h => ?_, fun isOutput h => ?_,
    fun swclk swdio h => ?_, fun on h => ?_⟩ <;>
    have harg := argField_of_decode h
  · obtain ⟨htck, htdi, htms⟩ := bits_of_argField harg
    refine ⟨htck, htdi, htms, hzero harg (argBits_shiftRight_three tms tdi tck), ?_⟩
    have hlow : (argField w).extractLsb' 0 3 = w.extractLsb' 0 3 := by
      simp [argField]
    rw [jtagWriteValue_eq_argBits, ← hlow, harg, Instr.arg]
  · obtain ⟨htrst, hsrst, -⟩ := bits_of_argField harg
    exact ⟨htrst, hsrst, hzero harg (argBits_shiftRight_two srst trst)⟩
  · exact ⟨(bits_of_argField harg).1, hzero harg (argBits_shiftRight_one on)⟩
  · exact ⟨(bits_of_argField harg).1, hzero harg (argBits_shiftRight_one isOutput)⟩
  · obtain ⟨hswclk, hswdio, -⟩ := bits_of_argField harg
    exact ⟨hswclk, hswdio, hzero harg (argBits_shiftRight_two swdio swclk)⟩
  · exact ⟨(bits_of_argField harg).1, hzero harg (argBits_shiftRight_one on)⟩

/-- Settles O52: whatever a command did, its answer comes last. -/
theorem everyCommandAnswersOnce : Obligations.EveryCommandAnswersOnce := by
  unfold Obligations.EveryCommandAnswersOnce
  intro i s t h
  obtain ⟨st, d, u, rfl, hst, hu⟩ := completed_responds (exec_completed h)
  refine ⟨⟨responseWord st d, ?_, ?_⟩, hu.trace⟩
  · rw [Answers, respond_responses, hu.responses]
  · rwa [statusByte_responseWord]

/-- Settles O5, word by word. -/
theorem workedEncodingsDecode : Obligations.WorkedEncodingsDecode := by
  unfold Obligations.WorkedEncodingsDecode
  decide

/-- Settles O7: the two fields, the seven codes, the packing of four, two and one pins. -/
theorem responseWordFields : Obligations.ResponseWordFields := by
  unfold Obligations.ResponseWordFields
  exact ⟨fun st d => ⟨statusByte_responseWord st d, responseWord_data st d⟩,
    status_code_injective, packPins_four, packPins_two, packPins_one⟩

end Sys2Proof.Proofs
end

section
/-! SUPPORT. A configuration command issued again (spec 40_pin_config R92): a set writes each of its
registers to a value that does not depend on what they held, so a second equal set writes nothing
new. -/

namespace Sys2Proof.Machine

/-! ### Setting the same registers twice -/

theorem pinRegs_eq_of_get {r r' : PinRegs} (h : ∀ x, r.get x = r'.get x) : r = r' := by
  cases r
  cases r'
  congr
  exacts [h .tck, h .tms, h .tdi, h .tdo, h .trst, h .srst, h .blink, h .swclk, h .swdio]

/-- The registers that the updates name are overwritten, so only the others matter. -/
theorem pinRegs_setAll_congr (updates : List (Signal × PinIdx)) {r r' : PinRegs}
    (h : ∀ x, (∀ e ∈ updates, e.1 ≠ x) → r.get x = r'.get x) :
    r.setAll updates = r'.setAll updates := by
  induction updates generalizing r r' with
  | nil => exact pinRegs_eq_of_get fun x => h x (by simp)
  | cons e updates ih =>
    refine ih fun x hx => ?_
    by_cases hex : e.1 = x
    · subst hex
      simp
    · rw [get_set_other r e.1 x e.2 hex, get_set_other r' e.1 x e.2 hex]
      exact h x (List.forall_mem_cons.mpr ⟨hex, hx⟩)

theorem pinRegs_setAll_setAll (updates : List (Signal × PinIdx)) (r : PinRegs) :
    (r.setAll updates).setAll updates = r.setAll updates :=
  pinRegs_setAll_congr updates fun x hx => pinRegs_get_setAll_other updates r x hx

theorem setPinsState_respond_setPinsState (sigs : List Signal) (c : CfgArgs) (st : Status)
    (d : BitVec 32) (s : State) :
    setPinsState sigs c (respond st d (setPinsState sigs c s)) =
      respond st d (setPinsState sigs c s) := by
  simp [setPinsState, respond, pinRegs_setAll_setAll]

/-! ### Running the same command twice -/

/-- Two equal commands answer the same, and the second leaves the state as the first left it, set,
query, late set and wrong count alike; only a set can have changed it. -/
theorem config_twice (sigs : List Signal) (c : CfgArgs) (s : State) :
    ∃ st d u, (config sigs c s).answer = .next (respond st d u) ∧
      u.responses = s.responses ∧
      (config sigs c (respond st d u)).answer = .next (respond st d (respond st d u)) ∧
      (c.argc ≠ sigCount sigs → u = s) := by
  by_cases hn : c.argc = sigCount sigs
  · by_cases hl : s.life = .unconfigured
    · have hl' : (setPinsState sigs c s).life = .unconfigured := hl
      refine ⟨.ok, packPins (sigs.map (setPinsState sigs c s).pa.get), setPinsState sigs c s, ?_, rfl,
        ?_, fun h => absurd hn h⟩
      · simp [config_answer, hn, hl]
      · simp [config_answer, hn, hl', setPinsState_respond_setPinsState]
    · refine ⟨.errUnavailable, 0, s, ?_, rfl, ?_, fun _ => rfl⟩ <;> simp [config_answer, hn, hl]
  · by_cases h0 : c.argc = 0
    · refine ⟨.ok, packPins (sigs.map s.pa.get), s, ?_, rfl, ?_, fun _ => rfl⟩ <;>
        rw [config_answer, if_pos (.inl h0), if_neg hn]
      rfl
    · have hbad : ¬ (c.argc = 0 ∨ c.argc = sigCount sigs) := not_or.mpr ⟨h0, hn⟩
      refine ⟨.errSyntax, 0, s, ?_, rfl, ?_, fun _ => rfl⟩ <;> rw [config_answer, if_neg hbad]

end Sys2Proof.Machine
end

section
/-! SUPPORT. The statements of 40_pin_config.md: a configuration command issued twice. -/

namespace Sys2Proof.Proofs

open Sys2Proof Sys2Proof.Machine Sys2Proof.Claims

/-- Settles O19: the eleven commands are one `Config(sigs)`, and a query is never a set. -/
theorem configCommandsAreIdempotent : Obligations.ConfigCommandsAreIdempotent := by
  unfold Obligations.ConfigCommandsAreIdempotent
  intro i sigs c s hi
  obtain ⟨st, d, u, hfirst, hresponses, hsecond, hkept⟩ := config_twice sigs c s
  refine ⟨respond st d u, responseWord st d, (exec_config s hi).trans hfirst, ?_,
    (exec_config _ hi).trans hsecond, fun h0 => ?_⟩
  · rw [Answers, respond_responses, hresponses]
  · have hquery : c.argc ≠ sigCount sigs := fun hn => sigCount_ne_zero hi (hn.symm.trans h0)
    rw [hkept hquery]
    rfl

end Sys2Proof.Proofs
end

section
/-! SUPPORT. The JTAG primitives (spec 41_jtag_primitives): which slots JTAG_WRITE writes (R101, R106);
then why no primitive stops in a state that meets the invariant (R105), so that INIT is the only command
that can, and what a step does when it does not go on. -/

namespace Sys2Proof.Machine

open Sys2Proof Sys2Proof.Claims

/-! ### JTAG_WRITE (R101, R106) -/

/-- The one bundle write of JTAG_WRITE gives slots 0, 1 and 2 the bits of TCK, TDI and TMS. -/
theorem slotWrites_jtagWrite : ∀ tck tms tdi : Bool,
    slotWrites maskJtagWrite (jtagWriteValue tck tms tdi) = [(0, tck), (1, tdi), (2, tms)] := by
  decide

/-- JTAG_WRITE in a JTAG session whose output bundle is allocated. -/
theorem exec_jtagWrite_of_available {s : State} (ha : jtagAvailable s = true)
    (ho : s.obAlloc = true) (tck tms tdi : Bool) :
    exec (.jtagWrite tck tms tdi) s = .next (respond .ok 0
      (applyDelay (bundleState maskJtagWrite (jtagWriteValue tck tms tdi) s))) := by
  change execJtagWrite tck tms tdi s = _
  rw [execJtagWrite_eq, if_pos ha, if_pos ho]

/-! ### What a primitive needs, and the invariant gives (R105, 42_swd R115) -/

section
variable {s : State}

theorem RegInv.bundles_of_available (h : RegInv s) (ha : jtagAvailable s = true) :
    s.obAlloc = true ∧ s.ibAlloc = true := by
  have hj := (jtagAvailable_iff.mp ha).2
  exact ⟨h.ob_alloc.trans hj, h.ib_alloc.trans hj⟩

/-- INIT drove both SWD pins, so SWD_DRIVE may turn SWDIO round either way. -/
theorem RegInv.swdPins_capable (h : RegInv s) (ha : swdAvailable s = true) :
    pinOutCapable s.params s.pa.swclk = true ∧ pinOutCapable s.params s.pa.swdio = true := by
  obtain ⟨hl, hw⟩ := swdAvailable_iff.mp ha
  have hswd := ((allCapable_driven _ _ _ _).mp (h.driven_capable hl)).2.1 hw
  exact ⟨hswd _ (by simp), hswd _ (by simp)⟩

theorem RegInv.blink_capable (h : RegInv s) (hl : s.life = .active) (hp : s.pa.blink ≠ noPin) :
    pinOutCapable s.params s.pa.blink = true := by
  have hopt := ((allCapable_driven _ _ _ _).mp (h.driven_capable hl)).2.2
  exact ((allCapable_optional _ _).mp hopt).2.2 hp

/-! ### Which command stops (93 U6) -/

variable {f : Fault}

/-- The shape most primitives share stops only past its guard, where its condition fails. -/
theorem guards_of_fault {p q : Prop} [Decidable p] [Decidable q] {u v : State} {f' : Fault}
    (h : (if p then if q then Host.Outcome.next u else .fault f' else .next v :
      Host.Outcome State Fault Refusal) = .fault f) : p ∧ ¬ q := by
  split at h
  · split at h <;> cases h
    exact ⟨‹p›, ‹¬ q›⟩
  · cases h

/-- A configuration command touches no pin. -/
theorem config_ne_fault {i : Instr} {sigs : List Signal} {c : CfgArgs}
    (hcfg : configCommand i = some (sigs, c)) : exec i s ≠ .fault f := by
  rw [exec_config s hcfg, config_answer]
  split_ifs <;> simp

theorem speedSet_ne_fault (khz : BitVec 32) : execSpeedSet khz s ≠ .fault f := by
  rw [execSpeedSet_eq]
  split_ifs <;> simp

/-- INIT stops only before a session, on a pin it should drive. -/
theorem init_of_fault (h : execInit s = .fault f) :
    s.life = .unconfigured ∧ ¬ DrivenPinsOutCapable s.trJtag s.trSwd s := by
  rcases execInit_cases s with ⟨-, h'⟩ | ⟨-, -, h'⟩ | ⟨-, -, -, -, ⟨-, h'⟩ | ⟨-, -, h'⟩⟩ |
    ⟨-, -, -, -, h'⟩ | ⟨hl, -, -, hc, -⟩
  case inr.inr.inr.inr => exact ⟨hl, hc⟩
  all_goals cases h'.symm.trans h

/-- SWDIO can be driven, hence is usable for a read direction too. -/
theorem swdDrive_ne_fault (hreg : RegInv s) (isOutput : Bool) :
    execSwdDrive isOutput s ≠ .fault f := by
  rw [execSwdDrive_eq]
  split
  next ha =>
    have hc := (hreg.swdPins_capable ha).2
    simp [pinValid_of_outCapable hc, hc]
  next => simp

/-- The only command that stops in a state whose registers meet the invariant is INIT, and only on a
pin that it should drive and the platform cannot. -/
theorem exec_of_fault {i : Instr} (hreg : RegInv s) (h : exec i s = .fault f) :
    i = .init ∧ s.life = .unconfigured ∧ ¬ DrivenPinsOutCapable s.trJtag s.trSwd s := by
  cases i with
  | init => exact ⟨rfl, init_of_fault h⟩
  | jtagPins | jtagPinTck | jtagPinTms | jtagPinTdi | jtagPinTdo | jtagPinTrst | jtagPinSrst
  | jtagPinBlink | swdPins | swdPinSwclk | swdPinSwdio => exact absurd h (config_ne_fault rfl)
  | quit | speedGet => cases h
  | speedSet khz => exact absurd h (speedSet_ne_fault khz)
  | jtagWrite tck tms tdi =>
    obtain ⟨ha, ho⟩ := guards_of_fault ((execJtagWrite_eq tck tms tdi s).symm.trans h)
    exact absurd (hreg.bundles_of_available ha).1 ho
  | jtagRead =>
    obtain ⟨ha, hi⟩ := guards_of_fault ((execJtagRead_eq s).symm.trans h)
    exact absurd (hreg.bundles_of_available ha).2 hi
  | jtagReset trst srst =>
    obtain ⟨ha, ho⟩ := guards_of_fault ((execJtagReset_eq trst srst s).symm.trans h)
    exact absurd (.inl (hreg.bundles_of_available ha).1) ho
  | jtagBlink on =>
    obtain ⟨ha, ho⟩ := guards_of_fault ((execJtagBlink_eq on s).symm.trans h)
    obtain ⟨hl, hj, -⟩ := jtagBlinkAvailable_iff.mp ha
    exact absurd (hreg.bundles_of_available (jtagAvailable_iff.mpr ⟨hl, hj⟩)).1 ho
  | swdDrive isOutput => exact absurd h (swdDrive_ne_fault hreg isOutput)
  | swdWrite swclk swdio =>
    obtain ⟨ha, hv⟩ := guards_of_fault ((execSwdWrite_eq swclk swdio s).symm.trans h)
    obtain ⟨hc, hd⟩ := hreg.swdPins_capable ha
    exact absurd ⟨pinValid_of_outCapable hc, pinValid_of_outCapable hd⟩ hv
  | swdRead =>
    obtain ⟨ha, hv⟩ := guards_of_fault ((execSwdRead_eq s).symm.trans h)
    exact absurd (pinValid_of_outCapable (hreg.swdPins_capable ha).2) hv
  | swdBlink on =>
    obtain ⟨ha, hv⟩ := guards_of_fault ((execSwdBlink_eq on s).symm.trans h)
    obtain ⟨hl, -, hp⟩ := swdBlinkAvailable_iff.mp ha
    exact absurd (pinValid_of_outCapable (hreg.blink_capable hl hp)) hv

end

/-! ### Steps that do not go on -/

/-- Every command is the answer of a piece of pseudocode. -/
theorem exec_eq_answer (i : Instr) (s : State) : ∃ r : Run (BitVec 32), exec i s = r.answer := by
  cases i with
  | quit => exact ⟨quitRun s, rfl⟩
  | speedGet => exact ⟨.go s.khz s, rfl⟩
  | _ => exact ⟨_, rfl⟩

theorem exec_ne_refused (i : Instr) (s : State) (x : Refusal) : exec i s ≠ .refused x := by
  obtain ⟨r, hr⟩ := exec_eq_answer i s
  exact hr ▸ answer_ne_refused r x

/-- A step goes on, or does what the command on the port does. -/
theorem step_next_or_command (s : State) :
    (∃ t, step s = .next t) ∨
      ∃ w i, s.cmd = some w ∧ decode w = .ok i ∧ step s = exec i (takeCommand s) := by
  cases hr : s.resetIn with
  | true => exact .inl ⟨_, step_of_reset hr⟩
  | false =>
    cases hc : s.cmd with
    | none => exact .inl ⟨_, step_of_empty hr hc⟩
    | some w =>
      cases hd : decode w with
      | ok i => exact .inr ⟨w, i, rfl, hd, step_of_command hr hc hd⟩
      | error why => exact .inl ⟨_, step_of_illegal hr hc hd⟩

theorem command_of_step_fault {s : State} {f : Fault} (h : step s = .fault f) :
    ∃ w i, s.cmd = some w ∧ decode w = .ok i ∧ exec i (takeCommand s) = .fault f := by
  rcases step_next_or_command s with ⟨t, ht⟩ | ⟨w, i, hc, hd, hstep⟩
  · cases ht.symm.trans h
  · exact ⟨w, i, hc, hd, hstep.symm.trans h⟩

theorem step_ne_refused (s : State) (x : Refusal) : step s ≠ .refused x := by
  rcases step_next_or_command s with ⟨t, ht⟩ | ⟨_, i, -, -, hstep⟩
  · simp [ht]
  · exact hstep ▸ exec_ne_refused i _ x

end Sys2Proof.Machine
end

section
/-! SUPPORT. The statements of 41_jtag_primitives.md: the write of the three lines, and which step can
stop the machine. -/

namespace Sys2Proof.Proofs

open Sys2Proof Sys2Proof.Machine

/-- Settles O39: the command is one bundle write of slots 0, 1 and 2, then the delay, then the
answer. -/
theorem jtagWriteMovesThreeLinesAtOnce : Obligations.JtagWriteMovesThreeLinesAtOnce := by
  unfold Obligations.JtagWriteMovesThreeLinesAtOnce
  intro s tck tms tdi hl hj ho
  have hwrite := bundleState_oneBundleWrite maskJtagWrite (jtagWriteValue tck tms tdi) s
  rw [slotWrites_jtagWrite] at hwrite
  refine ⟨_, bundleUpdates s maskJtagWrite (jtagWriteValue tck tms tdi),
    exec_jtagWrite_of_available (jtagAvailable_iff.mpr ⟨hl, hj⟩) ho tck tms tdi, ?_, hwrite, rfl⟩
  simp [bundleState]

/-- Settles O60: a step that stops runs a command that stops, and the invariant leaves INIT alone to
do so. -/
theorem onlyInitOnUndrivablePinsFaults : Obligations.OnlyInitOnUndrivablePinsFaults := by
  unfold Obligations.OnlyInitOnUndrivablePinsFaults
  intro s hs
  refine ⟨fun f hf => ?_, step_ne_refused s⟩
  obtain ⟨w, i, hc, hd, hexec⟩ := command_of_step_fault hf
  obtain ⟨rfl, hl, hpins⟩ := exec_of_fault (takeCommand_inv hs).1 hexec
  exact ⟨⟨w, hc, hd⟩, hl, hpins⟩

end Sys2Proof.Proofs
end

section
/-! SUPPORT. Directions (spec 10_state R24, 42_swd_primitives R120): the effects that set levels set no
direction, and INIT for SWD leaves SWDIO driven, whatever its pin is shared with. -/

namespace Sys2Proof.Machine

/-! ### Effects that set levels only -/

@[simp] theorem jtagResetState_direction (trst srst : Bool) (s : State) (p : Nat) :
    (jtagResetState trst srst s).direction p = s.direction p := by
  obtain ⟨l, tr, hframe⟩ := jtagResetState_frame trst srst s
  rw [hframe]
  rfl

@[simp] theorem swdLevelsState_direction (clockFirst swclk swdio : Bool) (s : State) (p : Nat) :
    (swdLevelsState clockFirst swclk swdio s).direction p = s.direction p := by
  obtain ⟨l, tr, hframe⟩ := swdLevelsState_frame clockFirst swclk swdio s
  rw [hframe]
  rfl

/-! ### SWD_DRIVE and INIT -/

theorem pin_of_dirState_direction_ne {q : PinIdx} {d : Drive} {s : State} {p : Nat}
    (h : (dirState q d s).direction p ≠ s.direction p) : p = q.toNat := by
  by_contra hp
  simp [hp] at h

/-- The phases from `SetupSwdPins()` on set outputs only, so TDO's input, set before them, does not
last on a pin shared with SWDIO (44_lifecycle R147, R150). -/
theorem initState_direction_swdio (j : Bool) (s : State) :
    (initState j true s).direction s.pa.swdio.toNat = some .output := by
  have hswd : true = true ∧ (s.pa.swdio.toNat = s.pa.swclk.toNat ∨
      s.pa.swdio.toNat = s.pa.swdio.toNat) := ⟨rfl, .inr rfl⟩
  rw [initState_direction, if_pos hswd]
  split_ifs <;> rfl

/-- INIT reaches ACTIVE in its successful case alone. -/
theorem init_of_active {s t : State} (hl : s.life = .unconfigured) (h : exec .init s = .next t)
    (ha : t.life = .active) : t = respond .ok 0 (initState s.trJtag s.trSwd s) := by
  cases exec_completed h with
  | initOk => rfl
  | initFailed => cases ha
  | failed => exact absurd (hl.symm.trans ha) (by decide)
  | query _ sigs c _ hcfg | set _ sigs c _ hcfg => cases hcfg

end Sys2Proof.Machine
end

section
/-! SUPPORT. The statement of 42_swd_primitives.md: who changes a direction. -/

namespace Sys2Proof.Proofs

open Sys2Proof Sys2Proof.Machine

/-- Settles O49: SWD_DRIVE changes the direction of its one pin, INIT may change any, and every other
command keeps all of them. -/
theorem directionsChangeOnlyByInitAndSwdDrive :
    Obligations.DirectionsChangeOnlyByInitAndSwdDrive := by
  unfold Obligations.DirectionsChangeOnlyByInitAndSwdDrive
  refine ⟨fun i s t p h hne => ?_, fun s t hl h ha hw => ?_⟩
  · cases exec_completed h with
    | initFailed _ _ hl | initOk _ hl => exact .inl ⟨rfl, hl⟩
    | swdDrive _ isOutput hav =>
      exact .inr ⟨⟨isOutput, rfl⟩, pin_of_dirState_direction_ne hne, (swdAvailable_iff.mp hav).2⟩
    | jtagReset | swdWrite => simp at hne
    | failed | query | set | quit | speedSet | speedGet | jtagWrite | jtagRead | jtagBlink
    | swdRead | swdBlink => exact absurd rfl hne
  · obtain rfl := init_of_active hl h ha
    have hswd : s.trSwd = true := hw
    simpa [hswd] using initState_direction_swdio s.trJtag s

end Sys2Proof.Proofs
end

section
/-! SUPPORT. INIT in the words of the statements (spec 44_lifecycle R140 to R155): how LIFE moves,
the successful case with its events and its effect on every pin, and what distinct pins make of it. -/

namespace Sys2Proof.Machine

open Sys2Proof Sys2Proof.Claims

/-! ### LIFE (R140) -/

/-- A command keeps LIFE, or it is INIT leaving UNCONFIGURED, or QUIT. -/
theorem completed_life {i : Instr} {s t : State} (h : Completed i s t) :
    t.life = s.life ∨
      (i = .init ∧ s.life = .unconfigured ∧ (t.life = .active ∨ t.life = .shutdown)) ∨
      (i = .quit ∧ t.life = .shutdown) := by
  cases h with
  | initFailed s d hl => exact .inr (.inl ⟨rfl, hl, .inr rfl⟩)
  | initOk s hl => exact .inr (.inl ⟨rfl, hl, .inl rfl⟩)
  | quit => exact .inr (.inr ⟨rfl, rfl⟩)
  | jtagReset s trst srst =>
    obtain ⟨l, tr, hframe⟩ := jtagResetState_frame trst srst s
    exact .inl (by rw [hframe]; rfl)
  | swdWrite s swclk swdio =>
    obtain ⟨l, tr, hframe⟩ := swdLevelsState_frame (clockGoesFirst s) swclk swdio s
    exact .inl (by rw [hframe]; rfl)
  | failed | query | set | speedSet | speedGet | jtagWrite | jtagRead | jtagBlink | swdDrive
  | swdRead | swdBlink => exact .inl rfl

/-- SHUTDOWN has the largest code (10_state R16). -/
theorem life_code_le_shutdown (l : Life) : l.code.toNat ≤ Life.shutdown.code.toNat := by
  cases l <;> decide

/-! ### The SWD validator (R142) -/

theorem canOperateSwd_iff {s : State} :
    canOperateSwd s = true ↔
      pinValid s.params s.pa.swclk = true ∧ pinValid s.params s.pa.swdio = true := by
  simp [canOperateSwd]

/-! ### The successful INIT (R143 to R149) -/

/-- INIT on straps that pass, with the bundles granted and every driven pin output-capable. -/
theorem exec_init_of_granted {s : State} (hl : s.life = .unconfigured) (hv : StrapsValid s)
    (hg : BundlesGranted s) (hc : DrivenPinsOutCapable s.trJtag s.trSwd s) :
    exec .init s = .next (respond .ok 0 (initState s.trJtag s.trSwd s)) := by
  change execInit s = _
  rcases execInit_cases s with ⟨hl', -⟩ | ⟨-, hv', -⟩ | ⟨-, -, hj, -, ⟨ho, -⟩ | ⟨-, hi, -⟩⟩ |
    ⟨-, -, -, -, h⟩ | ⟨-, -, -, hc', -⟩
  · exact absurd hl hl'
  · exact absurd hv hv'
  · simp [(hg hj).1] at ho
  · simp [(hg hj).2] at hi
  · exact h
  · exact absurd hc hc'

/-- The slots take the registers as they are (R146). -/
theorem bundlePins_eq (pa : PinRegs) :
    bundlePins pa = #v[pa.tck, pa.tdi, pa.tms, pa.trst, pa.srst, pa.blink] := by
  simp [bundlePins]

/-- `initState_frame` with the directions, latches and events named. -/
theorem initState_eq (j w : Bool) (s : State) :
    initState j w s = { s with
      life := .active
      jtagOn := j
      swdOn := w
      obAlloc := j || s.obAlloc
      ibAlloc := j || s.ibAlloc
      oslot := if j then
          #v[s.pa.tck, s.pa.tdi, s.pa.tms, s.pa.trst, s.pa.srst, s.pa.blink] else s.oslot
      islot := if j then s.pa.tdo else s.islot
      dir := (initState j w s).dir
      lvl := (initState j w s).lvl
      trace := (initState j w s).trace } := by
  obtain ⟨d, l, tr, hinit⟩ := initState_frame j w s
  rw [hinit, bundlePins_eq]

theorem initState_oslot (w : Bool) (s : State) :
    (initState true w s).oslot =
      #v[s.pa.tck, s.pa.tdi, s.pa.tms, s.pa.trst, s.pa.srst, s.pa.blink] := by
  rw [initState_eq]
  rfl

theorem initState_islot (w : Bool) (s : State) : (initState true w s).islot = s.pa.tdo := by
  rw [initState_eq]
  rfl

/-! ### Its events (R155) -/

@[simp] theorem setOutState_trace (p : PinIdx) (b : Bool) (s : State) :
    (setOutState p b s).trace = s.trace ++ setOutEvents p b := rfl

theorem jtagPart_trace (j : Bool) (s : State) :
    (jtagPart j s).trace =
      s.trace ++ if j then jtagSetupEvents s.pa ++ [.dir s.pa.tdo.toNat .input] else [] := by
  cases j <;> simp [jtagPart, bundlesState, dirState, jtagPinsState, jtagSetupEvents]

theorem swdPart_trace (w : Bool) (s : State) :
    (swdPart w s).trace =
      s.trace ++ if w then setOutEvents s.pa.swdio false ++ setOutEvents s.pa.swclk false
        else [] := by
  cases w <;> simp [swdPart, swdPinsState]

theorem optionalState_trace (p : PinIdx) (b : Bool) (s : State) :
    (optionalState p b s).trace = s.trace ++ optionalEvents p b := by
  unfold optionalState optionalEvents
  split <;> simp

theorem optionalPinsState_trace (s : State) :
    (optionalPinsState s).trace =
      s.trace ++ optionalEvents s.pa.trst (!s.params.trstAssertLevel) ++
        optionalEvents s.pa.srst (!s.params.srstAssertLevel) ++
        optionalEvents s.pa.blink false := by
  simp only [optionalPinsState, optionalState_trace]
  rfl

theorem initState_trace (j w : Bool) (s : State) :
    (initState j w s).trace = s.trace ++ initEvents j w s := by
  change (optionalPinsState (swdPart w (jtagPart j { s with life := .validated }))).trace = _
  simp only [optionalPinsState_trace, swdPart_trace, jtagPart_trace, swdPart_pa, jtagPart_pa,
    swdPart_params, jtagPart_params, initEvents, List.append_assoc]

/-! ### Its effect on every pin (R145 to R148, R150) -/

theorem initState_direction_eq (s : State) (q : Nat) :
    (initState s.trJtag s.trSwd s).direction q = initDirection s q := by
  have hopt : (∃ x ∈ [Signal.trst, .srst, .blink], s.pa.get x ≠ noPin ∧ q = (s.pa.get x).toNat) ↔
      (s.pa.blink ≠ noPin ∧ q = s.pa.blink.toNat) ∨ (s.pa.srst ≠ noPin ∧ q = s.pa.srst.toNat) ∨
        (s.pa.trst ≠ noPin ∧ q = s.pa.trst.toNat) := by
    simp only [List.exists_mem_cons_iff, PinRegs.get, List.not_mem_nil, false_and, exists_false,
      or_false]
    tauto
  simp only [initState_direction, initDirection, hopt, ite_or_eq]

theorem initState_level_eq (s : State) (q : Nat) :
    (initState s.trJtag s.trSwd s).level q = initLevel s q :=
  initState_level s.trJtag s.trSwd s q

/-! ### What a pin that no optional signal is on ends as -/

section
variable {s : State} {p : PinIdx}

theorem mem_assignedOptional {pa : PinRegs} :
    p ∈ assignedOptional pa ↔
      (pa.trst ≠ noPin ∧ p = pa.trst) ∨ (pa.srst ≠ noPin ∧ p = pa.srst) ∨
        (pa.blink ≠ noPin ∧ p = pa.blink) := by
  simp only [assignedOptional, List.mem_filter, List.mem_cons, List.not_mem_nil, or_false,
    bne_iff_ne]
  constructor
  · rintro ⟨rfl | rfl | rfl, hp⟩ <;> simp [hp]
  · rintro (⟨hp, rfl⟩ | ⟨hp, rfl⟩ | ⟨hp, rfl⟩) <;> simp [hp]

theorem initDirection_of_not_optional (h : p ∉ assignedOptional s.pa) :
    initDirection s p.toNat =
      if s.trSwd = true ∧ (p = s.pa.swclk ∨ p = s.pa.swdio) then some .output
      else if s.trJtag = true ∧ p = s.pa.tdo then some .input
      else if s.trJtag = true ∧ (p = s.pa.tms ∨ p = s.pa.tck ∨ p = s.pa.tdi) then some .output
      else s.direction p.toNat := by
  simp only [mem_assignedOptional, not_or] at h
  obtain ⟨htrst, hsrst, hblink⟩ := h
  simp only [initDirection, List.exists_mem_cons_iff, PinRegs.get, List.not_mem_nil, false_and,
    exists_false, or_false, BitVec.toNat_inj, htrst, hsrst, hblink, false_or]

theorem initLevel_of_not_optional (h : p ∉ assignedOptional s.pa) :
    initLevel s p.toNat =
      if s.trSwd = true ∧ (p = s.pa.swclk ∨ p = s.pa.swdio) then false
      else if s.trJtag = true ∧ p = s.pa.tms then true
      else if s.trJtag = true ∧ (p = s.pa.tck ∨ p = s.pa.tdi) then false
      else s.level p.toNat := by
  simp only [mem_assignedOptional, not_or] at h
  obtain ⟨htrst, hsrst, hblink⟩ := h
  simp only [initLevel, BitVec.toNat_inj, htrst, hsrst, hblink, if_false]

end

/-! ### What R150 says of pins the two transports share -/

section
variable {s : State}

/-- A TMS pin shared with SWDIO ends low. -/
theorem initLevel_tms_of_shared (hw : s.trSwd = true) (htms : s.pa.tms = s.pa.swdio)
    (ho : s.pa.tms ∉ assignedOptional s.pa) : initLevel s s.pa.tms.toNat = false := by
  rw [initLevel_of_not_optional ho, if_pos ⟨hw, .inr htms⟩]

/-- A TDO pin shared with an SWD pin ends an output. -/
theorem initDirection_tdo_of_shared (hw : s.trSwd = true)
    (htdo : s.pa.tdo ∈ [s.pa.swclk, s.pa.swdio]) :
    initDirection s s.pa.tdo.toNat = some .output := by
  have hswd : s.pa.tdo = s.pa.swclk ∨ s.pa.tdo = s.pa.swdio := by simpa using htdo
  exact if_pos (.inr ⟨hw, hswd.imp (congrArg _) (congrArg _)⟩)

end

/-! ### Distinct pins (R154, 70_reset R212) -/

/-- INIT from `s` leaves the pin an output with this latch: a row of R154's table. -/
def EndsDriven (s : State) (p : PinIdx) (b : Bool) : Prop :=
  initDirection s p.toNat = some .output ∧ initLevel s p.toNat = b

section
variable {s : State} (hd : PinsDistinct s.trJtag s.trSwd s)
include hd

/-- The four JTAG pins differ, and no later phase names one of them. -/
theorem jtagPins_distinct (hj : s.trJtag = true) :
    [s.pa.tck, s.pa.tdi, s.pa.tms, s.pa.tdo].Nodup ∧
      ∀ p ∈ [s.pa.tck, s.pa.tdi, s.pa.tms, s.pa.tdo], p ∉ assignedOptional s.pa ∧
        ¬ (s.trSwd = true ∧ (p = s.pa.swclk ∨ p = s.pa.swdio)) := by
  simp only [PinsDistinct, usedPins, hj, if_true, List.append_assoc] at hd
  have hlater := List.disjoint_of_nodup_append hd
  refine ⟨hd.of_append_left, fun p hp => ⟨fun ho => ?_, fun ⟨hw, hswd⟩ => ?_⟩⟩
  · exact hlater hp (List.mem_append_right _ ho)
  · exact hlater hp (List.mem_append_left _ (by simpa [hw] using hswd))

theorem swdPins_not_optional (hw : s.trSwd = true) :
    s.pa.swclk ∉ assignedOptional s.pa ∧ s.pa.swdio ∉ assignedOptional s.pa := by
  simp only [PinsDistinct, usedPins, hw, if_true] at hd
  have hlater := List.disjoint_of_nodup_append hd
  exact ⟨fun ho => hlater (by simp) ho, fun ho => hlater (by simp) ho⟩

theorem optionalPins_distinct :
    (s.pa.trst ≠ noPin → s.pa.trst ≠ s.pa.srst ∧ s.pa.trst ≠ s.pa.blink) ∧
      (s.pa.srst ≠ noPin → s.pa.srst ≠ s.pa.blink) := by
  have hopt : (assignedOptional s.pa).Nodup := List.Nodup.of_append_right hd
  simp only [assignedOptional, List.Nodup, List.pairwise_filter, bne_iff_ne, List.pairwise_cons,
    List.forall_mem_cons] at hopt
  obtain ⟨⟨htrst_srst, htrst_blink, -⟩, ⟨hsrst_blink, -⟩, -⟩ := hopt
  refine ⟨fun ht => ⟨fun heq => ?_, fun heq => ?_⟩, fun hs heq => ?_⟩
  · exact htrst_srst ht (heq ▸ ht) heq
  · exact htrst_blink ht (heq ▸ ht) heq
  · exact hsrst_blink hs (heq ▸ hs) heq

theorem initDirection_jtagPin (hj : s.trJtag = true) {p : PinIdx}
    (hp : p ∈ [s.pa.tck, s.pa.tdi, s.pa.tms, s.pa.tdo]) :
    initDirection s p.toNat = if p = s.pa.tdo then some .input else some .output := by
  obtain ⟨hopt, hno_swd⟩ := (jtagPins_distinct hd hj).2 p hp
  rw [initDirection_of_not_optional hopt, if_neg hno_swd]
  simp only [List.mem_cons, List.not_mem_nil, or_false] at hp
  rcases hp with rfl | rfl | rfl | rfl <;> simp [hj]

theorem initLevel_jtagPin (hj : s.trJtag = true) {p : PinIdx}
    (hp : p ∈ [s.pa.tck, s.pa.tdi, s.pa.tms, s.pa.tdo]) :
    initLevel s p.toNat =
      if p = s.pa.tms then true
      else if p = s.pa.tck ∨ p = s.pa.tdi then false else s.level p.toNat := by
  obtain ⟨hopt, hno_swd⟩ := (jtagPins_distinct hd hj).2 p hp
  rw [initLevel_of_not_optional hopt, if_neg hno_swd]
  simp [hj]

theorem endState_jtag (hj : s.trJtag = true) :
    EndsDriven s s.pa.tck false ∧ EndsDriven s s.pa.tdi false ∧ EndsDriven s s.pa.tms true ∧
      initDirection s s.pa.tdo.toNat = some .input ∧
      initLevel s s.pa.tdo.toNat = s.level s.pa.tdo.toNat := by
  have hne := (jtagPins_distinct hd hj).1
  simp only [List.nodup_cons, List.mem_cons, List.not_mem_nil, or_false, not_or] at hne
  obtain ⟨⟨-, htck_tms, htck_tdo⟩, ⟨htdi_tms, htdi_tdo⟩, htms_tdo, -⟩ := hne
  simp [EndsDriven, initDirection_jtagPin hd hj, initLevel_jtagPin hd hj, htck_tms, htck_tdo,
    htdi_tms, htdi_tdo, htms_tdo, Ne.symm htck_tdo, Ne.symm htdi_tdo, Ne.symm htms_tdo]

theorem endState_swd (hw : s.trSwd = true) :
    EndsDriven s s.pa.swdio false ∧ EndsDriven s s.pa.swclk false := by
  obtain ⟨hclk, hdio⟩ := swdPins_not_optional hd hw
  simp [EndsDriven, initDirection_of_not_optional, initLevel_of_not_optional, hclk, hdio, hw]

theorem endState_trst (h : s.pa.trst ≠ noPin) :
    EndsDriven s s.pa.trst (!s.params.trstAssertLevel) := by
  obtain ⟨hsrst, hblink⟩ := (optionalPins_distinct hd).1 h
  simp [EndsDriven, initDirection, initLevel, PinRegs.get, BitVec.toNat_inj, h, hsrst, hblink]

theorem endState_srst (h : s.pa.srst ≠ noPin) :
    EndsDriven s s.pa.srst (!s.params.srstAssertLevel) := by
  have hblink := (optionalPins_distinct hd).2 h
  simp [EndsDriven, initDirection, initLevel, PinRegs.get, BitVec.toNat_inj, h, hblink]

end

section
variable {s : State}

/-- BLINK comes last, so no other pin need differ from it. -/
theorem endState_blink (h : s.pa.blink ≠ noPin) : EndsDriven s s.pa.blink false := by
  simp [EndsDriven, initDirection, initLevel, PinRegs.get, h]

/-- A pin no signal of the session is on is as it was. -/
theorem endState_unused {p : PinIdx} (h : p ∉ usedPins s.trJtag s.trSwd s.pa) :
    initDirection s p.toNat = s.direction p.toNat ∧ initLevel s p.toNat = s.level p.toNat := by
  simp only [usedPins, List.mem_append, not_or] at h
  obtain ⟨⟨hjtag, hswd⟩, hopt⟩ := h
  have hno_swd : ¬ (s.trSwd = true ∧ (p = s.pa.swclk ∨ p = s.pa.swdio)) :=
    fun ⟨hw, hp⟩ => hswd (by simpa [hw] using hp)
  rw [initDirection_of_not_optional hopt, initLevel_of_not_optional hopt, if_neg hno_swd,
    if_neg hno_swd]
  cases hj : s.trJtag with
  | false => simp
  | true =>
    obtain ⟨htck, htdi, htms, htdo⟩ :
        p ≠ s.pa.tck ∧ p ≠ s.pa.tdi ∧ p ≠ s.pa.tms ∧ p ≠ s.pa.tdo := by simpa [hj] using hjtag
    simp [htck, htdi, htms, htdo]

end

/-! ### What the output bundle reads (10_state R21, R154) -/

/-- An absent slot reads 0, so the pin's level need be known only when there is a pin. -/
theorem bundleBit_of_slot {t : State} {i : Fin 6} {p : PinIdx} {b : Bool}
    (hslot : t.oslot[i] = p) (hlevel : p ≠ noPin → t.level p.toNat = b) :
    t.bundleBit i = (p != noPin && b) := by
  by_cases hp : p = noPin
  · simp [State.bundleBit, hslot, hp]
  · simp [State.bundleBit, hslot, hlevel hp]

/-- A slot reads the level its pin ends at. -/
theorem initState_bundleBit_of_slot {s : State} (hj : s.trJtag = true) {i : Fin 6} {p : PinIdx}
    {b : Bool}
    (hslot : #v[s.pa.tck, s.pa.tdi, s.pa.tms, s.pa.trst, s.pa.srst, s.pa.blink][i] = p)
    (hends : p ≠ noPin → EndsDriven s p b) :
    (initState s.trJtag s.trSwd s).bundleBit i = (p != noPin && b) := by
  refine bundleBit_of_slot ?_ fun hp => (initState_level_eq s _).trans (hends hp).2
  rw [hj, initState_oslot]
  exact hslot

/-- The slots of the output bundle after INIT for JTAG, in the order of R20. -/
theorem initState_bundleBit {s : State} (hc : DrivenPinsOutCapable s.trJtag s.trSwd s)
    (hd : PinsDistinct s.trJtag s.trSwd s) (hj : s.trJtag = true) (i : Fin 6) :
    (initState s.trJtag s.trSwd s).bundleBit i =
      #v[false, false, true, s.pa.trst != noPin && !s.params.trstAssertLevel,
        s.pa.srst != noPin && !s.params.srstAssertLevel, false][i] := by
  obtain ⟨htck, htdi, htms, -⟩ := endState_jtag hd hj
  have htms_ne : s.pa.tms ≠ noPin :=
    pinValid_ne_noPin (pinValid_of_outCapable (hc s.pa.tms (by simp [drivenPins, hj])))
  fin_cases i
  · exact (initState_bundleBit_of_slot hj (i := 0) rfl fun _ => htck).trans (Bool.and_false _)
  · exact (initState_bundleBit_of_slot hj (i := 1) rfl fun _ => htdi).trans (Bool.and_false _)
  · exact (initState_bundleBit_of_slot hj (i := 2) rfl fun _ => htms).trans
      (by simp [htms_ne])
  · exact initState_bundleBit_of_slot hj (i := 3) rfl (endState_trst hd)
  · exact initState_bundleBit_of_slot hj (i := 4) rfl (endState_srst hd)
  · exact (initState_bundleBit_of_slot hj (i := 5) rfl endState_blink).trans (Bool.and_false _)

/-- R154's two values of the output bundle, with all the optional signals and with none. -/
theorem bundleValue_all_optional :
    ∀ i : Fin 6, #v[false, false, true, true, true, false][i] =
      (0x1C : BitVec 6).getLsbD i.val := by
  decide

theorem bundleValue_no_optional :
    ∀ i : Fin 6, #v[false, false, true, false, false, false][i] =
      (0x04 : BitVec 6).getLsbD i.val := by
  decide

end Sys2Proof.Machine
end

section
/-! SUPPORT. The statements of 44_lifecycle.md: how LIFE moves, what INIT does to every pin, the SWD
validator. -/

namespace Sys2Proof.Proofs

open Sys2Proof Sys2Proof.Machine Sys2Proof.Claims

/-- Settles O14: of all that a command can do, only INIT out of UNCONFIGURED and QUIT move LIFE. -/
theorem lifeMovesForwardOnly : Obligations.LifeMovesForwardOnly := by
  unfold Obligations.LifeMovesForwardOnly
  intro i s t h
  rcases completed_life (exec_completed h) with hsame | ⟨rfl, hl, ht⟩ | ⟨rfl, ht⟩
  · exact ⟨by rw [hsame], fun hne => absurd hsame hne⟩
  · exact ⟨hl ▸ Nat.zero_le _, fun _ => .inl ⟨rfl, hl, ht⟩⟩
  · exact ⟨ht ▸ life_code_le_shutdown s.life, fun _ => .inr ⟨rfl, ht⟩⟩

/-- Settles O25: the successful case of INIT, read phase by phase; the clause on shared pins is what
the last phase makes of them. -/
theorem initCompletesWithTheseEvents : Obligations.InitCompletesWithTheseEvents := by
  unfold Obligations.InitCompletesWithTheseEvents
  intro s hl hv hg hc
  refine ⟨_, exec_init_of_granted hl hv hg hc, initState_trace _ _ s, initState_direction_eq s,
    initState_level_eq s, fun hj hw => ⟨fun htms hopt => ?_, fun htdo => ?_⟩, ?_⟩
  · have hlow : (initState s.trJtag s.trSwd s).level s.pa.tms.toNat = false :=
      (initState_level_eq s _).trans
        (initLevel_tms_of_shared hw htms (mt List.mem_of_mem_filter hopt))
    have hslot : (initState s.trJtag s.trSwd s).oslot[2] = s.pa.tms := by
      simp [hj, initState_oslot]
    exact ⟨hlow, (bundleBit_of_slot hslot fun _ => hlow).trans (Bool.and_false _)⟩
  · exact (initState_direction_eq s _).trans (initDirection_tdo_of_shared hw htdo)
  · exact congrArg (respond .ok 0) (initState_eq _ _ s)

/-- Settles O26: with distinct pins no later phase names a pin again, so each row is what the phase
of its signal leaves. -/
theorem initReachesTheEndStateTable : Obligations.InitReachesTheEndStateTable := by
  unfold Obligations.InitReachesTheEndStateTable
  intro s hl hv hg hc hd
  refine ⟨_, exec_init_of_granted hl hv hg hc, ?_⟩
  simp only [respond_direction, respond_level, respond_oslot, respond_islot,
    initState_direction_eq, initState_level_eq]
  refine ⟨fun hj => ?_, endState_swd hd, endState_trst hd, endState_srst hd, endState_blink,
    fun p => endState_unused, fun hj htrst hsrst => ?_⟩
  · obtain ⟨htck, htdi, htms, htdo, htdo_level⟩ := endState_jtag hd hj
    refine ⟨htck, htdi, htms, htdo, htdo_level, ?_, ?_⟩
    · rw [hj, initState_oslot]
    · rw [hj, initState_islot]
  · have hbits := initState_bundleBit hc hd hj
    simp only [htrst, hsrst, Bool.not_false, Bool.and_true] at hbits
    refine ⟨fun ht hs _ i => (hbits i).trans ?_, fun ht hs _ i => (hbits i).trans ?_⟩
    · rw [bne_iff_ne.mpr ht, bne_iff_ne.mpr hs]
      exact bundleValue_all_optional i
    · rw [ht, hs, bne_self_eq_false]
      exact bundleValue_no_optional i

/-- Settles O29: an unassigned pin is never valid (10_state R12). -/
theorem swdValidatorAsksForTwoValidPins : Obligations.SwdValidatorAsksForTwoValidPins := by
  unfold Obligations.SwdValidatorAsksForTwoValidPins
  intro s
  exact ⟨canOperateSwd_iff, by simp [canOperateSwd], by simp [canOperateSwd]⟩

end Sys2Proof.Proofs
end

section
/-! SUPPORT. What an error answer says of the command (spec 60_exceptions R171, R179), and when INIT
past the validator faults (R187, 44_lifecycle R145, R146). -/

namespace Sys2Proof.Machine

open Sys2Proof Sys2Proof.Claims

/-! ### Error answers (R171, R179) -/

/-- The word a command answers with is the one it appended last. -/
theorem answer_of_respond {s u : State} {st : Status} {d : BitVec 32} {r : RspWord}
    (h : Answers s (respond st d u) r) : r = responseWord st d :=
  (List.singleton_inj.mp (List.append_inj_right' h rfl)).symm

theorem status_of_respond {s u : State} {st : Status} {d : BitVec 32} {r : RspWord}
    (h : Answers s (respond st d u) r) : statusByte r = st.code :=
  answer_of_respond h ▸ statusByte_responseWord st d

/-- An answer that is neither OK nor ResourceError is all that the command did. -/
theorem failsWith_of_answers {i : Instr} {s t : State} {r : RspWord} (h : Completed i s t)
    (ha : Answers s t r) (hok : statusByte r ≠ Status.ok.code)
    (hres : statusByte r ≠ Status.errResource.code) :
    ∃ e d, FailsWith i s e d ∧ r = responseWord e d ∧ t = respond e d s := by
  cases h with
  | failed i s e d hwhy => exact ⟨e, d, hwhy, answer_of_respond ha, rfl⟩
  | initFailed => exact absurd (status_of_respond ha) hres
  | query | set | initOk | quit | speedSet | speedGet | jtagWrite | jtagRead | jtagReset
  | jtagBlink | swdDrive | swdWrite | swdRead | swdBlink => exact absurd (status_of_respond ha) hok

/-- Only a configuration command with a wrong argument count answers `ERR_SYNTAX`. -/
theorem wrongCount_of_syntaxError {i : Instr} {s t : State} {r : RspWord} (h : Completed i s t)
    (ha : Answers s t r) (hr : statusByte r = Status.errSyntax.code) :
    ∃ sigs c, configCommand i = some (sigs, c) ∧ c.argc ≠ 0 ∧ c.argc ≠ sigCount sigs := by
  obtain ⟨e, d, hwhy, rfl, -⟩ :=
    failsWith_of_answers h ha (by rw [hr]; decide) (by rw [hr]; decide)
  rw [statusByte_responseWord] at hr
  cases status_code_injective _ _ hr
  exact hwhy.2

theorem exec_config_of_wrongCount {i : Instr} {sigs : List Signal} {c : CfgArgs} (s : State)
    (hcfg : configCommand i = some (sigs, c)) (h0 : c.argc ≠ 0) (hn : c.argc ≠ sigCount sigs) :
    exec i s = .next (respond .errSyntax 0 s) := by
  rw [exec_config s hcfg, config_answer, if_neg (not_or.mpr ⟨h0, hn⟩)]

/-! ### INIT past the validator (R187) -/

/-- Past the validator INIT is its setup phase (44_lifecycle R143). -/
theorem exec_init_of_validated {s : State} (hl : s.life = .unconfigured) (hv : Validated s) :
    exec .init s = (setup s.trJtag s.trSwd s).answer := by
  rcases validate_cases s with ⟨-, h⟩ | ⟨hn, -⟩
  · have hreq : isUnconfigured s = true := by simp [isUnconfigured, hl]
    change (initRun s).answer = _
    rw [initRun, hreq, require_true, andThen_go, h, andThen_go]
  · exact absurd hv hn

theorem tdi_valid_of_canOperate {s : State} (h : canOperateJtag s = true) :
    pinValid s.params s.pa.tdi = true := by
  simp only [canOperateJtag, Bool.and_eq_true] at h
  exact h.1.2

/-- TDI is the first pin INIT drives, so an undrivable TDI stops it at once (44_lifecycle R145). -/
theorem exec_init_of_tdi_incapable {s : State} (hl : s.life = .unconfigured) (hv : Validated s)
    (hj : s.trJtag = true) (hc : pinOutCapable s.params s.pa.tdi = false) :
    exec .init s = .fault (.pinNotOutCapable s.pa.tdi) := by
  have hstop : setupJtagPins { s with life := .validated } = .stop (.pinNotOutCapable s.pa.tdi) :=
    setupJtagPins_of_tdi_incapable (tdi_valid_of_canOperate (hv.2.1 hj)) hc
  rw [exec_init_of_validated hl hv, hj, setup, when_true, hstop, andThen_stop, answer_stop]

/-- The pins that a JTAG session drives before it asks for the bundles (44_lifecycle R145). -/
abbrev JtagPinsDrivable (s : State) : Prop :=
  s.trJtag = true → AllCapable s.params [s.pa.tdi, s.pa.tck, s.pa.tms]

/-- INIT past the validator, by whether the platform grants the bundles. -/
theorem exec_init_validated_cases {s : State} (hl : s.life = .unconfigured) (hv : Validated s) :
    (¬ BundlesGranted s ∧ JtagPinsDrivable s ∧ ∃ t, exec .init s = .next t) ∨
    (BundlesGranted s ∧ DrivenPinsOutCapable s.trJtag s.trSwd s ∧ ∃ t, exec .init s = .next t) ∨
    ((¬ BundlesGranted s → ¬ JtagPinsDrivable s) ∧
      ¬ DrivenPinsOutCapable s.trJtag s.trSwd s ∧ ∃ f, exec .init s = .fault f) := by
  rcases execInit_cases s with ⟨hl', -⟩ | ⟨-, hv', -⟩ | ⟨-, -, hj, hc, hrefused⟩ |
    ⟨-, -, hg, hc, h⟩ | ⟨-, -, hg, hc, hf⟩
  · exact absurd hl hl'
  · exact absurd hv hv'
  · refine .inl ⟨fun hg => ?_, fun _ => hc, ?_⟩
    · obtain ⟨hout, hinp⟩ := hg hj
      simp [hout, hinp] at hrefused
    · rcases hrefused with ⟨-, h⟩ | ⟨-, -, h⟩ <;> exact ⟨_, h⟩
  · exact .inr (.inl ⟨hg, hc, _, h⟩)
  · exact .inr (.inr ⟨mt fun hd hj => hg hj (hd hj), hc, hf⟩)

/-- A command that completes under `p` and faults otherwise does each exactly then. -/
theorem completes_iff_and_faults_iff {o : Host.Outcome State Fault Refusal} {p : Prop}
    (h : (p ∧ ∃ t, o = .next t) ∨ (¬ p ∧ ∃ f, o = .fault f)) :
    ((∃ t, o = .next t) ↔ p) ∧ ((∃ f, o = .fault f) ↔ ¬ p) := by
  rcases h with ⟨hp, t, rfl⟩ | ⟨hp, f, rfl⟩ <;> simp [hp]

end Sys2Proof.Machine
end

section
/-! SUPPORT. The statements of 60_exceptions.md: which commands answer which error, what an error
leaves, and when INIT faults. -/

namespace Sys2Proof.Proofs

open Sys2Proof Sys2Proof.Machine Sys2Proof.Claims

/-- Settles O17: a wrong count is the one way to `ERR_SYNTAX` among all that a command can answer. -/
theorem wrongArgumentCountIsASyntaxError : Obligations.WrongArgumentCountIsASyntaxError := by
  unfold Obligations.WrongArgumentCountIsASyntaxError
  exact ⟨fun i sigs c s hcfg h0 hn => exec_config_of_wrongCount s hcfg h0 hn,
    fun i s t r h ha hr => wrongCount_of_syntaxError (exec_completed h) ha hr⟩

/-- Settles O31: INIT past the validator either completes or faults, and a refused bundle ends it
before any pin but the three JTAG outputs is driven. -/
theorem initFaultsExactlyOnUndrivablePins : Obligations.InitFaultsExactlyOnUndrivablePins := by
  unfold Obligations.InitFaultsExactlyOnUndrivablePins
  intro s hl hv
  have hcases := exec_init_validated_cases hl hv
  refine ⟨fun hg => completes_iff_and_faults_iff ?granted,
    fun hg => completes_iff_and_faults_iff ?refused, exec_init_of_tdi_incapable hl hv⟩
  case granted =>
    rcases hcases with ⟨hg', -⟩ | ⟨-, hc, h⟩ | ⟨-, hc, h⟩
    · exact absurd hg hg'
    · exact .inl ⟨hc, h⟩
    · exact .inr ⟨hc, h⟩
  case refused =>
    rcases hcases with ⟨-, hd, h⟩ | ⟨hg', -⟩ | ⟨hd, -, h⟩
    · exact .inl ⟨hd, h⟩
    · exact absurd hg' hg
    · exact .inr ⟨hd hg, h⟩

/-- Settles O53: a command that fails otherwise than by a refused bundle only answers. -/
theorem errorsLeaveTheStateUnchanged : Obligations.ErrorsLeaveTheStateUnchanged := by
  unfold Obligations.ErrorsLeaveTheStateUnchanged
  intro i s t r h ha hok hres
  obtain ⟨e, d, -, rfl, rfl⟩ := failsWith_of_answers (exec_completed h) ha hok hres
  rfl

end Sys2Proof.Proofs
end

section
/-! SUPPORT. Reset and hazards (spec 70_reset_and_hazards): which pins are touched outside a session
(R201); how a write of one family moves the other's lines where their pins coincide; and why, while
HOST keeps to one family, no line outside it changes (R213). -/

namespace Sys2Proof.Machine

open Sys2Proof Sys2Proof.Claims

/-! ### Before a session (R201) -/

/-- A pin that was given no direction is ENV's. -/
theorem pad_of_unset {s : State} {p : Nat} (h : s.direction p = none) : s.pad p = s.padIn p :=
  pad_of_undriven (by simp [h])

/-- Outside `ACTIVE` every primitive is unavailable, so INIT alone touches a pin. -/
theorem Completed.keeps_pins_of_not_active {i : Instr} {s t : State} (h : Completed i s t)
    (hl : s.life ≠ .active) (hi : i ≠ .init) :
    t.trace = s.trace ∧ t.dir = s.dir ∧ t.lvl = s.lvl := by
  cases h with
  | failed | query | set | quit | speedSet | speedGet => exact ⟨rfl, rfl, rfl⟩
  | initFailed | initOk => exact absurd rfl hi
  | jtagWrite _ _ _ _ ha | jtagRead _ ha | jtagReset _ _ _ ha =>
    exact absurd (jtagAvailable_iff.mp ha).1 hl
  | jtagBlink _ _ ha => exact absurd (jtagBlinkAvailable_iff.mp ha).1 hl
  | swdDrive _ _ ha | swdWrite _ _ _ ha | swdRead _ ha =>
    exact absurd (swdAvailable_iff.mp ha).1 hl
  | swdBlink _ _ ha => exact absurd (swdBlinkAvailable_iff.mp ha).1 hl

/-! ### Lines on shared pins (R213) -/

section
variable {s : State}

/-- SWD_WRITE in an SWD session on usable pins. -/
theorem exec_swdWrite_of_available (ha : swdAvailable s = true)
    (hc : pinValid s.params s.pa.swclk = true) (hd : pinValid s.params s.pa.swdio = true)
    (swclk swdio : Bool) :
    exec (.swdWrite swclk swdio) s =
      .next (respond .ok 0 (applyDelay (swdLevelsState (clockGoesFirst s) swclk swdio s))) := by
  change execSwdWrite swclk swdio s = _
  rw [execSwdWrite_eq, if_pos ha, if_pos ⟨hc, hd⟩]

/-- On two pins the order of the two level writes does not matter. -/
theorem swdLevelsState_level_of_ne (hne : s.pa.swclk ≠ s.pa.swdio)
    (clockFirst swclk swdio : Bool) (p : Nat) :
    (swdLevelsState clockFirst swclk swdio s).level p =
      if p = s.pa.swclk.toNat then swclk
      else if p = s.pa.swdio.toNat then swdio else s.level p := by
  cases clockFirst with
  | false => simp [swdLevelsState]
  | true =>
    have hdiff : s.pa.swclk.toNat ≠ s.pa.swdio.toNat := fun h => hne (BitVec.eq_of_toNat_eq h)
    by_cases hclk : p = s.pa.swclk.toNat <;> simp [swdLevelsState, hclk, hdiff]

theorem swdLevelsState_oslot (clockFirst swclk swdio : Bool) (s : State) :
    (swdLevelsState clockFirst swclk swdio s).oslot = s.oslot := by
  obtain ⟨l, tr, hframe⟩ := swdLevelsState_frame clockFirst swclk swdio s
  rw [hframe]

/-- A slot on SWCLK's or SWDIO's pin reads what SWD_WRITE wrote there; every other slot reads what it
did. -/
theorem swdLevelsState_bundleBit (hc : s.pa.swclk ≠ noPin) (hd : s.pa.swdio ≠ noPin)
    (hne : s.pa.swclk ≠ s.pa.swdio) (clockFirst swclk swdio : Bool) (i : Fin 6) :
    (swdLevelsState clockFirst swclk swdio s).bundleBit i =
      if s.oslot[i] = s.pa.swclk then swclk
      else if s.oslot[i] = s.pa.swdio then swdio else s.bundleBit i := by
  rw [bundleBit_of_slot (p := s.oslot[i]) (by rw [swdLevelsState_oslot]) fun _ =>
    swdLevelsState_level_of_ne hne clockFirst swclk swdio _]
  simp only [BitVec.toNat_inj]
  split_ifs with hclk hdio
  · simp [hclk, hc]
  · simp [hdio, hd]
  · rfl

/-- The one write to a present slot's pin gives the pin its bit. -/
theorem bundleState_level_of_only_write {mask val : BitVec 6} {e : Fin 6 × Bool}
    (he : e ∈ slotWrites mask val) (hp : s.oslot[e.1] ≠ noPin)
    (honly : ∀ e' ∈ slotWrites mask val, s.oslot[e'.1] = s.oslot[e.1] → e' = e) :
    (bundleState mask val s).level s.oslot[e.1].toNat = e.2 :=
  bundleState_level_of_mem
    (mem_bundleUpdates_of_agreeing he hp fun e' he' h => congrArg Prod.snd (honly e' he' h))

/-- JTAG_WRITE through slots on three pins gives the pin of each of them its bit. -/
theorem jtagWrite_level_of_slot (hdistinct : [s.oslot[0], s.oslot[1], s.oslot[2]].Nodup)
    {tck tms tdi : Bool} {e : Fin 6 × Bool} (he : e ∈ [(0, tck), (1, tdi), (2, tms)])
    (hp : s.oslot[e.1] ≠ noPin) :
    (bundleState maskJtagWrite (jtagWriteValue tck tms tdi) s).level s.oslot[e.1].toNat = e.2 := by
  have hslots : ([(0, tck), (1, tdi), (2, tms)].map fun e : Fin 6 × Bool => s.oslot[e.1]).Nodup :=
    hdistinct
  rw [← slotWrites_jtagWrite] at he hslots
  exact bundleState_level_of_only_write he hp fun e' he' h =>
    List.inj_on_of_nodup_map hslots he' he h

/-- JTAG_WRITE keeps the latch of a pin that none of its three slots is on. -/
theorem jtagWrite_level_other {p : PinIdx} (hp : p ∉ [s.oslot[0], s.oslot[1], s.oslot[2]])
    (tck tms tdi : Bool) :
    (bundleState maskJtagWrite (jtagWriteValue tck tms tdi) s).level p.toNat =
      s.level p.toNat := by
  have hfree : ∀ e ∈ [((0 : Fin 6), tck), (1, tdi), (2, tms)], s.oslot[e.1] ≠ p := by
    simpa [eq_comm] using hp
  rw [← slotWrites_jtagWrite] at hfree
  rw [bundleState_level, bundleUpdates_get_of_unwritten fun e he _ h =>
    hfree e he (BitVec.eq_of_toNat_eq h)]

end

/-! ### One family leaves the other's lines (R213) -/

/-- From `t` to `u` no line changed but those of one family, the registers and slots as in `s`: for
JTAG no direction and no latch but the present slots' pins, for SWD no direction but SWDIO's and no
latch but those of SWCLK, SWDIO and the indicator. -/
def OthersKept (s t u : State) : Transport → Prop
  | .jtag => u.dir = t.dir ∧
      ∀ p, (∀ i : Fin 6, s.oslot[i] ≠ noPin → s.oslot[i].toNat ≠ p) → u.level p = t.level p
  | .swd => (∀ p, p ≠ s.pa.swdio.toNat → u.direction p = t.direction p) ∧
      ∀ p, (∀ x ∈ [Signal.swclk, .swdio, .blink], (s.pa.get x).toNat ≠ p) →
        u.level p = t.level p

section
variable {s t u v : State} {g : Transport}

theorem OthersKept.of_untouched (hdir : u.dir = t.dir) (hlevel : ∀ p, u.level p = t.level p)
    (g : Transport) : OthersKept s t u g :=
  match g with
  | .jtag => ⟨hdir, fun p _ => hlevel p⟩
  | .swd => ⟨fun p _ => congrArg (PinMap.get · p) hdir, fun p _ => hlevel p⟩

theorem OthersKept.trans (h : OthersKept s t u g) (h' : OthersKept s u v g) :
    OthersKept s t v g :=
  match g, h, h' with
  | .jtag, ⟨hdir, hlevel⟩, ⟨hdir', hlevel'⟩ =>
    ⟨hdir'.trans hdir, fun p hp => (hlevel' p hp).trans (hlevel p hp)⟩
  | .swd, ⟨hdir, hlevel⟩, ⟨hdir', hlevel'⟩ =>
    ⟨fun p hp => (hdir' p hp).trans (hdir p hp), fun p hp => (hlevel' p hp).trans (hlevel p hp)⟩

/-- A bundle write reaches present slots only. -/
theorem bundleState_level_of_no_slot {p : Nat}
    (h : ∀ i : Fin 6, s.oslot[i] ≠ noPin → s.oslot[i].toNat ≠ p) (mask val : BitVec 6) :
    (bundleState mask val s).level p = s.level p := by
  rw [bundleState_level, bundleUpdates_get_of_unwritten fun e _ => h e.1]

theorem lineState_level_of_no_slot {p : Nat}
    (h : ∀ i : Fin 6, s.oslot[i] ≠ noPin → s.oslot[i].toNat ≠ p) (sig : Signal)
    (mask val : BitVec 6) : (lineState sig mask val s).level p = s.level p := by
  unfold lineState
  split
  · exact bundleState_level_of_no_slot h mask val
  · rfl

theorem jtagResetState_level_of_no_slot {p : Nat}
    (h : ∀ i : Fin 6, s.oslot[i] ≠ noPin → s.oslot[i].toNat ≠ p) (trst srst : Bool) :
    (jtagResetState trst srst s).level p = s.level p := by
  rw [jtagResetState, lineState_level_of_no_slot (by simpa only [lineState_oslot] using h),
    lineState_level_of_no_slot h]

theorem jtagResetState_dir (trst srst : Bool) (s : State) :
    (jtagResetState trst srst s).dir = s.dir := by
  obtain ⟨l, tr, hframe⟩ := jtagResetState_frame trst srst s
  rw [hframe]

/-- A command that completes after INIT, and is no primitive of the other family, changes no line of
it: INIT itself is then unavailable, and a primitive runs in `ACTIVE` only. -/
theorem Completed.othersKept {i : Instr} (h : Completed i s t) (hbegun : s.life ≠ .unconfigured)
    (hg : s.life = .active → ∀ g', primitiveTransport i = some g' → g' = g) :
    OthersKept s s t g := by
  cases h with
  | failed | query | quit | speedSet | speedGet | jtagRead | swdRead =>
    exact .of_untouched rfl (fun _ => rfl) g
  | set _ _ _ _ _ _ hl | initFailed _ _ hl | initOk _ hl => exact absurd hl hbegun
  | jtagWrite _ _ _ _ ha =>
    obtain rfl := hg (jtagAvailable_iff.mp ha).1 .jtag rfl
    exact ⟨rfl, fun p hp => bundleState_level_of_no_slot hp _ _⟩
  | jtagReset _ trst srst ha =>
    obtain rfl := hg (jtagAvailable_iff.mp ha).1 .jtag rfl
    exact ⟨jtagResetState_dir trst srst s,
      fun p hp => jtagResetState_level_of_no_slot hp trst srst⟩
  | jtagBlink _ _ ha =>
    obtain rfl := hg (jtagBlinkAvailable_iff.mp ha).1 .jtag rfl
    exact ⟨rfl, fun p hp => bundleState_level_of_no_slot hp _ _⟩
  | swdDrive _ isOutput ha =>
    obtain rfl := hg (swdAvailable_iff.mp ha).1 .swd rfl
    exact ⟨fun p hp => not_imp_comm.mp pin_of_dirState_direction_ne hp, fun _ _ => rfl⟩
  | swdWrite _ swclk swdio ha =>
    obtain rfl := hg (swdAvailable_iff.mp ha).1 .swd rfl
    refine ⟨fun p _ => swdLevelsState_direction _ swclk swdio s p, fun p hp => ?_⟩
    refine not_imp_comm.mp pin_of_swdLevelsState_level_ne ?_
    rintro (rfl | rfl)
    · exact hp .swclk (by simp) rfl
    · exact hp .swdio (by simp) rfl
  | swdBlink _ on ha =>
    obtain rfl := hg (swdBlinkAvailable_iff.mp ha).1 .swd rfl
    refine ⟨fun _ _ => rfl, fun p hp => not_imp_comm.mp pin_of_levelState_level_ne ?_⟩
    rintro rfl
    exact hp .blink (by simp) rfl

/-! ### The session -/

/-- `t` belongs to the session that `s` is in: no reset since, the registers the same, the slots the
same or released, and both paths installed until QUIT. -/
structure InSession (s t : State) : Prop where
  resetIn : t.resetIn = false
  begun : t.life ≠ .unconfigured
  both : t.life = .active → BothPathsInstalled t
  pa : t.pa = s.pa
  slots : ∀ i : Fin 6, t.oslot[i] ≠ noPin → t.oslot[i] = s.oslot[i]

theorem InSession.of_active (hl : s.life = .active) (hb : BothPathsInstalled s)
    (hr : s.resetIn = false) : InSession s s :=
  ⟨hr, by simp [hl], fun _ => hb, rfl, fun _ _ => rfl⟩

theorem InSession.hostAct {a : HostAction} (h : InSession s t) (ha : a ≠ .assertReset) :
    InSession s (hostAct a t) := by
  cases a with
  | assertReset => exact absurd rfl ha
  | present | straps | grants | environment => exact ⟨h.resetIn, h.begun, h.both, h.pa, h.slots⟩

theorem InSession.takeCommand (h : InSession s t) : InSession s (takeCommand t) :=
  ⟨h.resetIn, h.begun, h.both, h.pa, h.slots⟩

/-- In a session no command but QUIT writes the lifecycle state, the flags, the registers or the
slots. -/
theorem InSession.of_written {i : Instr} (h : InSession s t) (hw : Written t i u) :
    InSession s u := by
  cases hw with
  | config _ hl | initJtag hl | initSwd hl => exact absurd hl h.begun
  | quit =>
    exact ⟨h.resetIn, by simp [quitState], by simp [quitState], h.pa,
      fun i hi => absurd (quitState_slot t i) hi⟩
  | answer | speedSet | drive | sample => exact ⟨h.resetIn, h.begun, h.both, h.pa, h.slots⟩

theorem InSession.step (h : InSession s t) (hstep : step t = .next u) : InSession s u := by
  cases stepped_of_step hstep with
  | reset hr => simp [h.resetIn] at hr
  | waits => exact h
  | command _ _ _ _ _ hc => exact h.takeCommand.of_written (completed_written hc)
  | illegal => exact ⟨h.resetIn, h.begun, h.both, h.pa, h.slots⟩

/-- What is kept of the lines as they are now is kept of those the session began with. -/
theorem InSession.othersKept (h : InSession s t) (hk : OthersKept t t u g) :
    OthersKept s t u g := by
  cases g with
  | jtag =>
    obtain ⟨hdir, hlevel⟩ := hk
    refine ⟨hdir, fun p hp => hlevel p fun i hi => ?_⟩
    have hslot := h.slots i hi
    rw [hslot] at hi ⊢
    exact hp i hi
  | swd =>
    unfold OthersKept at hk ⊢
    rwa [h.pa] at hk

/-- No action of the outside moves a line. -/
theorem hostAct_othersKept (a : HostAction) (s t : State) (g : Transport) :
    OthersKept s t (hostAct a t) g :=
  .of_untouched (by cases a <;> rfl) (fun _ => by cases a <;> rfl) g

theorem fetch_of_command {w : CmdWord} {i : Instr} (hr : s.resetIn = false)
    (hc : s.cmd = some w) (hd : decode w = .ok i) : fetch s = .command i (takeCommand s) := by
  simp [fetch, hr, hc, hd]

/-- A step of a session that uses no family but `g` keeps the other one's lines. -/
theorem InSession.step_othersKept (h : InSession s t) (hstep : Machine.step t = .next u)
    (hg : ∀ g', transportUsed t = some g' → g' = g) : OthersKept s t u g := by
  cases stepped_of_step hstep with
  | reset hr => simp [h.resetIn] at hr
  | waits | illegal => exact .of_untouched rfl (fun _ => rfl) g
  | command w i hr hc hd hdone =>
    have hprim : t.life = .active → ∀ g', primitiveTransport i = some g' → g' = g := by
      intro hl g' hi
      have hused := transportUsed_of_both (fetch_of_command hr hc hd) (h.both hl)
      exact hg g' (hused.trans hi)
    exact h.othersKept (hdone.othersKept h.begun hprim)

end

theorem session_othersKept {acts : List HostAction} {f : Option Transport} {s t u : State}
    (hs : InSession s t) (hreset : .assertReset ∉ acts)
    (hduty : keepsOneTransport f acts t = true) (hsession : session acts t = .next u)
    (hkept : ∀ g, (∀ g', f = some g' → g' = g) → OthersKept s s t g) :
    ∃ g, OthersKept s s u g := by
  induction acts generalizing t f with
  | nil =>
    cases hsession
    cases f with
    | none => exact ⟨.jtag, hkept .jtag (by simp)⟩
    | some g => exact ⟨g, hkept g (by simp)⟩
  | cons a rest ih =>
    obtain ⟨v, hstep, hrest⟩ := session_cons_eq_next.mp hsession
    obtain ⟨hone, hduty⟩ := (keepsOneTransport_cons hstep).mp hduty
    have ht := hs.hostAct (a := a) fun ha => hreset (ha ▸ List.mem_cons_self)
    rw [ht.resetIn, if_neg Bool.false_ne_true] at hduty
    refine ih (ht.step hstep) (fun h => hreset (List.mem_cons_of_mem _ h)) hduty hrest
      fun g hg => ?_
    have hused : ∀ g', transportUsed (hostAct a t) = some g' → g' = g :=
      fun g' h => hg g' (by simp [h])
    have hsofar : ∀ g', f = some g' → g' = g := by
      intro g' hf
      cases hu : transportUsed (hostAct a t) with
      | none => exact hg g' (by simp [hu, hf])
      | some g'' => exact (hone g'' g' hu hf).trans (hused g'' hu)
    exact ((hkept g hsofar).trans (hostAct_othersKept a s t g)).trans
      (ht.step_othersKept hstep hused)

end Sys2Proof.Machine
end

section
/-! SUPPORT. The statements of 70_reset_and_hazards.md: reset and waiting, QUIT, and one family of
primitives per session. -/

namespace Sys2Proof.Proofs

open Sys2Proof Sys2Proof.Machine

/-- Settles O56: on shared pins a write of one family moves the other's lines; and what every step of a
session that keeps to one family leaves as it was, the session does. -/
theorem oneTransportKeepsTheLinesApart : Obligations.OneTransportKeepsTheLinesApart := by
  unfold Obligations.OneTransportKeepsTheLinesApart
  refine ⟨fun s hl ⟨hj, hw⟩ ho => ⟨fun swclk swdio hc hd hne => ?_, fun tck tms tdi hslots => ?_⟩,
    fun acts s t hl hb hr hreset hduty hsession => ?_⟩
  · refine ⟨_, exec_swdWrite_of_available (swdAvailable_iff.mpr ⟨hl, hw⟩) hc hd swclk swdio,
      fun i => ?_⟩
    have hbit := swdLevelsState_bundleBit (pinValid_ne_noPin hc) (pinValid_ne_noPin hd) hne
      (clockGoesFirst s) swclk swdio i
    exact ⟨fun hclk => hbit.trans (if_pos hclk),
      fun hdio => hbit.trans ((if_neg (hdio ▸ hne.symm)).trans (if_pos hdio)),
      fun hclk hdio => hbit.trans ((if_neg hclk).trans (if_neg hdio))⟩
  · refine ⟨_, exec_jtagWrite_of_available (jtagAvailable_iff.mpr ⟨hl, hj⟩) ho tck tms tdi,
      fun p _ hp => ?_⟩
    have hwritten : ∀ e ∈ [((0 : Fin 6), tck), (1, tdi), (2, tms)], s.oslot[e.1] = p →
        (bundleState maskJtagWrite (jtagWriteValue tck tms tdi) s).level p.toNat = e.2 := by
      rintro e he rfl
      exact jtagWrite_level_of_slot hslots he hp
    exact ⟨hwritten (0, tck) (by simp), hwritten (1, tdi) (by simp), hwritten (2, tms) (by simp),
      fun hother => jtagWrite_level_other hother tck tms tdi⟩
  · obtain ⟨g, hkept⟩ := session_othersKept (.of_active hl hb hr) hreset hduty hsession
      fun g _ => .of_untouched rfl (fun _ => rfl) g
    cases g with
    | jtag => exact .inl hkept
    | swd => exact .inr hkept

/-- Settles O54: at reset no pin has a direction, and outside a session no primitive is available. -/
theorem noPinIsTouchedBeforeInit : Obligations.NoPinIsTouchedBeforeInit := by
  unfold Obligations.NoPinIsTouchedBeforeInit
  refine ⟨fun p => ⟨rfl, pad_of_unset rfl⟩, rfl, fun s hr => ?_,
    fun i s t hl hi h => (exec_completed h).keeps_pins_of_not_active (by simp [hl]) hi⟩
  exact ⟨applyReset s, step_of_reset hr, rfl, fun p => ⟨rfl, pad_of_unset rfl⟩⟩

/-- Settles O11: the empty-port case of a step. -/
theorem stepWaitsForACommand : Obligations.StepWaitsForACommand := by
  unfold Obligations.StepWaitsForACommand
  intro s hr hc
  exact step_of_empty hr hc

/-- Settles O33, by what QUIT does in any state. -/
theorem quitReleasesEverything : Obligations.QuitReleasesEverything := by
  unfold Obligations.QuitReleasesEverything
  intro s
  exact execQuit_eq s

end Sys2Proof.Proofs
end

section
/-! SUPPORT. Command words on the port (spec 20_memory R46, 30_encoding R60, R68) and the reset
(10_state R31, 70_reset R200): bytes and their word, the word of no row, the table of reset values,
and how SHUTDOWN ends. -/

namespace Sys2Proof.Machine

open Sys2Proof Sys2Proof.Claims

/-! ### Bytes of a command word (20_memory R46) -/

/-- The six bytes of a word, the first one highest, are the word. -/
theorem append_commandBytes (w : CmdWord) :
    w.extractLsb' 40 8 ++ w.extractLsb' 32 8 ++ w.extractLsb' 24 8 ++ w.extractLsb' 16 8 ++
      w.extractLsb' 8 8 ++ w.extractLsb' 0 8 = w := by
  rw [BitVec.extractLsb'_append_extractLsb'_eq_extractLsb' (by decide : 40 = 32 + 8),
    BitVec.extractLsb'_append_extractLsb'_eq_extractLsb' (by decide : 32 = 24 + 8),
    BitVec.extractLsb'_append_extractLsb'_eq_extractLsb' (by decide : 24 = 16 + 8),
    BitVec.extractLsb'_append_extractLsb'_eq_extractLsb' (by decide : 16 = 8 + 8)]
  exact BitVec.extractLsb'_append_extractLsb'

theorem decodeBytes_commandBytes (w : CmdWord) : decodeBytes (commandBytes w) = decode w :=
  congrArg decode (append_commandBytes w)

theorem decodeBytes_of_length_ne {bs : List (BitVec 8)} (h : bs.length ≠ 6) :
    decodeBytes bs = .error (.notSixBytes bs.length) := by
  unfold decodeBytes
  split
  · exact absurd rfl h
  · rfl

/-! ### A word of no row (30_encoding R68) -/

theorem row_mem_opcodeTable (o : Op) : o.row ∈ opcodeTable := List.getElem_mem _

/-- A word that matches no row of the table is illegal, as a command's word matches the command's
row. -/
theorem illegal_of_no_row {w : CmdWord} (h : ∀ r ∈ opcodeTable, w &&& r.mask ≠ r.bits) :
    ∃ why, decode w = .error why := by
  cases hd : decode w with
  | error why => exact ⟨why, rfl⟩
  | ok i =>
    exact absurd ((row_selects_iff i.op w).mpr ⟨i, hd, rfl⟩) (h _ (row_mem_opcodeTable i.op))

/-! ### The reset table (10_state R31) -/

/-- The reset state holds the table's values, whatever the parameters, the lines the outside drives
and the number of resets are. -/
theorem reset_atResetValues {ps : Params} {trJtag trSwd allocOutOK allocInOK : Bool} {env : Env}
    {epoch : Nat} :
    AtResetValues ps { State.reset with
      khz := ps.khzReset, delayCnt := ps.delayCount, trJtag := trJtag, trSwd := trSwd
      allocOutOK := allocOutOK, allocInOK := allocInOK, env := env, params := ps
      epoch := epoch } := by
  refine ⟨fun x => ?registers, rfl, rfl, rfl, rfl, rfl, fun i => ?slots, rfl, fun p => rfl,
    fun p => rfl, rfl, rfl, rfl⟩
  case registers => cases x <;> rfl
  case slots => fin_cases i <;> rfl

/-! ### The end of SHUTDOWN (44_lifecycle R151) -/

theorem completed_keeps_shutdown {i : Instr} {s t : State} (h : Completed i s t)
    (hl : s.life = .shutdown) : t.life = .shutdown := by
  rcases completed_life h with hsame | ⟨-, hu, -⟩ | ⟨-, ht⟩
  · exact hsame.trans hl
  · simp [hl] at hu
  · exact ht

end Sys2Proof.Machine
end

section
/-! SUPPORT. The statements of 20_memory.md, 30_encoding.md, 10_state.md and 70_reset_and_hazards.md
that the lemmas above and the laws of the two per-pin primitives settle. -/

namespace Sys2Proof.Proofs

open Sys2Proof Sys2Proof.Machine

/-- Settles O6: the six bytes put together again are the word. -/
theorem serialisedCommandsDecode : Obligations.SerialisedCommandsDecode := by
  unfold Obligations.SerialisedCommandsDecode
  exact ⟨decodeBytes_commandBytes, fun bs h => decodeBytes_of_length_ne h⟩

/-- Settles O10: such a word is illegal, and an illegal word is only answered. -/
theorem wordOfNoRowAnswersIllegal : Obligations.WordOfNoRowAnswersIllegal := by
  unfold Obligations.WordOfNoRowAnswersIllegal
  intro s w hr hc hrows
  obtain ⟨why, hd⟩ := illegal_of_no_row hrows
  exact step_of_illegal hr hc hd

/-- Settles O12: power-on and a later reset give one state, but for what the reset does not set. -/
theorem resetGivesTheTableOfValues : Obligations.ResetGivesTheTableOfValues := by
  unfold Obligations.ResetGivesTheTableOfValues
  exact ⟨reset_atResetValues, fun s hr => ⟨applyReset s, step_of_reset hr, reset_atResetValues⟩⟩

/-- Settles O13: of all that a step can do, only a reset does not keep SHUTDOWN. -/
theorem onlyResetLeavesShutdown : Obligations.OnlyResetLeavesShutdown := by
  unfold Obligations.OnlyResetLeavesShutdown
  intro s t h hl
  cases stepped_of_step h with
  | reset hr => simp [hr, applyReset, State.reset]
  | waits hr => simp [hr, hl]
  | illegal _ _ hr => simp [hr, takeCommand, hl]
  | command _ _ hr _ _ hc => simp [hr, completed_keeps_shutdown hc hl]

/-- Settles O35, from everything `PinSetDir` can do. -/
theorem pinSetDirKeepsTheLatch : Obligations.PinSetDirKeepsTheLatch := by
  unfold Obligations.PinSetDirKeepsTheLatch
  intro p d s
  refine ⟨fun hv hc => ?_, fun hbad => ?_⟩
  · exact ⟨dirState p d s, pinSetDir_of_ok hv hc, rfl, dirState_direction p d s,
      dirState_level p d s, rfl⟩
  · rcases pinSetDir_cases p d s with ⟨-, h⟩ | ⟨-, -, -, h⟩ | ⟨hv, hc, -⟩
    · exact ⟨_, h⟩
    · exact ⟨_, h⟩
    · rcases hbad with hbad | ⟨hd, hbad⟩
      · simp [hv] at hbad
      · simp [hc hd] at hbad

/-- Settles O36, from what `PinSetLevel` does on a usable pin. -/
theorem pinSetLevelWritesTheLatch : Obligations.PinSetLevelWritesTheLatch := by
  unfold Obligations.PinSetLevelWritesTheLatch
  intro p b s hv
  exact ⟨levelState p b s, pinSetLevel_of_valid hv, rfl, levelState_level p b s, rfl⟩

end Sys2Proof.Proofs
end

section
/-! SUPPORT. The configuration commands by their argument count (spec 40_pin_config R80, R93): a
query, a set before INIT and a late set; and the answer of a set (R81 to R91, 30_encoding R64). -/

namespace Sys2Proof.Machine

open Sys2Proof Sys2Proof.Claims

section
variable {i : Instr} {sigs : List Signal} {c : CfgArgs} {s : State}

theorem exec_config_query (hcfg : configCommand i = some (sigs, c)) (h0 : c.argc = 0) :
    exec i s = .next (respond .ok (packPins (sigs.map s.pa.get)) s) := by
  have hset : c.argc ≠ sigCount sigs := fun h => sigCount_ne_zero hcfg (h.symm.trans h0)
  rw [exec_config s hcfg, config_answer, if_pos (.inl h0), if_neg hset]

theorem exec_config_set (hcfg : configCommand i = some (sigs, c)) (hn : c.argc = sigCount sigs)
    (hl : s.life = .unconfigured) :
    exec i s = .next (respond .ok (packPins (sigs.map (setPinsState sigs c s).pa.get))
      (setPinsState sigs c s)) := by
  rw [exec_config s hcfg, config_answer, if_pos (.inr hn), if_pos hn, if_pos hl]

theorem exec_config_lateSet (hcfg : configCommand i = some (sigs, c))
    (hn : c.argc = sigCount sigs) (hl : s.life ≠ .unconfigured) :
    exec i s = .next (respond .errUnavailable 0 s) := by
  rw [exec_config s hcfg, config_answer, if_pos (.inr hn), if_pos hn, if_neg hl]

end

/-! ### The answer of a set (30_encoding R64) -/

section
variable {n p q : Nat}

theorem toNat_append_assoc (x : BitVec n) (y : BitVec p) (z : BitVec q) :
    (x ++ (y ++ z)).toNat = (x ++ y ++ z).toNat := by
  simp [BitVec.append_assoc]

theorem toNat_append_congr {x : BitVec n} {y : BitVec p} (h : x.toNat = y.toNat) (z : BitVec q) :
    (x ++ z).toNat = (y ++ z).toNat := by
  simp [BitVec.toNat_append, h]

end

theorem responseWord_ok_one (a : PinIdx) :
    responseWord .ok (packPins [a]) = (0 : BitVec 8) ++ a ++ (0 : BitVec 24) := by
  rw [packPins_one]
  exact BitVec.eq_of_toNat_eq (toNat_append_assoc 0 a 0)

theorem responseWord_ok_two (a b : PinIdx) :
    responseWord .ok (packPins [a, b]) = (0 : BitVec 8) ++ a ++ b ++ (0 : BitVec 16) := by
  rw [packPins_two]
  exact BitVec.eq_of_toNat_eq ((toNat_append_assoc 0 (a ++ b) 0).trans
    (toNat_append_congr (toNat_append_assoc 0 a b) 0))

theorem responseWord_ok_four (a b c d : PinIdx) :
    responseWord .ok (packPins [a, b, c, d]) = (0 : BitVec 8) ++ a ++ b ++ c ++ d := by
  have hthree := (toNat_append_assoc 0 (a ++ b) c).trans
    (toNat_append_congr (toNat_append_assoc (0 : BitVec 8) a b) c)
  rw [packPins_four]
  exact BitVec.eq_of_toNat_eq
    ((toNat_append_assoc 0 (a ++ b ++ c) d).trans (toNat_append_congr hthree d))

/-- The nine commands of one signal (R82 to R88, R90, R91). -/
theorem exec_setOnePin {i : Instr} {x : Signal} {a b c d : PinIdx} {s : State}
    (hcfg : configCommand i = some ([x], ⟨1, a, b, c, d⟩)) (hl : s.life = .unconfigured) :
    exec i s = .next { s with
      pa := s.pa.set x a
      responses := s.responses ++ [(0 : BitVec 8) ++ a ++ (0 : BitVec 24)] } := by
  have hanswer : [x].map (setPinsState [x] ⟨1, a, b, c, d⟩ s).pa.get = [a] :=
    congrArg (fun v => [v]) (get_set_self s.pa x a)
  rw [exec_config_set hcfg rfl hl, hanswer, respond, responseWord_ok_one]
  rfl

end Sys2Proof.Machine
end

section
/-! SUPPORT. The statements of 40_pin_config.md on queries, sets and late sets. -/

namespace Sys2Proof.Proofs

open Sys2Proof Sys2Proof.Machine

/-- Settles O16: no configuration command has zero signals, so zero arguments are a query. -/
theorem configQueriesAnswerTheRegisters : Obligations.ConfigQueriesAnswerTheRegisters := by
  unfold Obligations.ConfigQueriesAnswerTheRegisters
  intro i sigs c s hcfg h0
  exact exec_config_query hcfg h0

/-- Settles O18: the set part asks for UNCONFIGURED before it writes. -/
theorem lateConfigurationSetsAreRejected : Obligations.LateConfigurationSetsAreRejected := by
  unfold Obligations.LateConfigurationSetsAreRejected
  intro i sigs c s hcfg hn hl
  exact exec_config_lateSet hcfg hn hl

/-- Settles O15: the two commands of several signals, then the nine of one. -/
theorem configSetsWriteTheirRegisters : Obligations.ConfigSetsWriteTheirRegisters := by
  unfold Obligations.ConfigSetsWriteTheirRegisters
  intro s a b c d hl one answer after
  have hone (i : Instr) (x : Signal) (hcfg : configCommand i = some ([x], one)) :
      exec i s = .next (after (s.pa.set x a)) := exec_setOnePin hcfg hl
  refine ⟨?_, ?_, hone _ .tck rfl, hone _ .tms rfl, hone _ .tdi rfl, hone _ .tdo rfl,
    hone _ .trst rfl, hone _ .srst rfl, hone _ .blink rfl, hone _ .swclk rfl,
    hone _ .swdio rfl⟩
  · rw [← responseWord_ok_four]
    exact exec_config_set (i := .jtagPins ⟨4, a, b, c, d⟩) rfl rfl hl
  · rw [← responseWord_ok_two]
    exact exec_config_set (i := .swdPins ⟨2, a, b, c, d⟩) rfl rfl hl

end Sys2Proof.Proofs
end

section
/-! SUPPORT. KHZ is bookkeeping only (spec 43_speed R130 to R134): no piece of pseudocode but
SPEED_SET's and SPEED_GET's reads or writes it, so each does the same whatever KHZ holds. -/

namespace Sys2Proof.Machine

open Sys2Proof Sys2Proof.Claims

/-! ### Pseudocode that KHZ does not reach (R133) -/

/-- The state with another nominal speed. -/
def withKhz (k : BitVec 32) (s : State) : State := { s with khz := k }

/-- The same end in another state. -/
def Run.mapState {α : Type} (g : State → State) : Run α → Run α
  | .go a s => .go a (g s)
  | .raised e info s => .raised e info (g s)
  | .stop f => .stop f

/-- The pseudocode neither reads KHZ nor writes it: from a state with another KHZ it ends the same,
with that KHZ. -/
def KhzBlind {α : Type} (act : State → Run α) : Prop :=
  ∀ k s, act (withKhz k s) = (act s).mapState (withKhz k)

section
variable {α β : Type}

theorem KhzBlind.andThen {act : State → Run α} {next : α → State → Run β} (ha : KhzBlind act)
    (hn : ∀ a, KhzBlind (next a)) : KhzBlind fun s => (act s).andThen next := by
  intro k s
  simp only [ha k s]
  cases act s with
  | go a t => exact hn a k t
  | raised | stop => rfl

theorem KhzBlind.ite {c : State → Prop} [DecidablePred c] {act act' : State → Run α}
    (hc : ∀ k s, c (withKhz k s) ↔ c s) (h : KhzBlind act) (h' : KhzBlind act') :
    KhzBlind fun s => if c s then act s else act' s := by
  intro k s
  by_cases hs : c s
  · simpa only [if_pos hs, if_pos ((hc k s).mpr hs)] using h k s
  · simpa only [if_neg hs, if_neg (mt (hc k s).mp hs)] using h' k s

theorem require_khzBlind {c : State → Bool} (hc : ∀ k s, c (withKhz k s) = c s) (e : Status) :
    KhzBlind fun s => require (c s) e s :=
  .ite (fun k s => by rw [hc]) (fun _ _ => rfl) fun _ _ => rfl

theorem when_khzBlind {c : State → Bool} {act : State → State → Run Unit}
    (hc : ∀ k s, c (withKhz k s) = c s) (ha : KhzBlind fun s => act s s) :
    KhzBlind fun s => when (c s) (act s) s :=
  .ite (fun k s => by rw [hc]) ha fun _ _ => rfl

end

/-! ### The access primitives -/

theorem pinSetDir_khzBlind (p : PinIdx) (d : Drive) : KhzBlind (pinSetDir p d) :=
  .ite (fun _ _ => .rfl) (fun _ _ => rfl) (.ite (fun _ _ => .rfl) (fun _ _ => rfl) fun _ _ => rfl)

theorem pinSetLevel_khzBlind (p : PinIdx) (b : Bool) : KhzBlind (pinSetLevel p b) :=
  .ite (fun _ _ => .rfl) (fun _ _ => rfl) fun _ _ => rfl

theorem setOut_khzBlind (p : PinIdx) (b : Bool) : KhzBlind (setOut p b) :=
  (pinSetDir_khzBlind p .output).andThen fun _ => pinSetLevel_khzBlind p b

theorem samplePad_khzBlind (p : Nat) : KhzBlind (samplePad p) := by
  intro k s
  have hsample : answerSample (withKhz k s) p = answerSample s p := rfl
  rw [samplePad_eq, samplePad_eq, hsample]
  rfl

theorem pinGetLevel_khzBlind (p : PinIdx) : KhzBlind (pinGetLevel p) :=
  .ite (fun _ _ => .rfl) (fun _ _ => rfl) (samplePad_khzBlind p.toNat)

theorem bundleWrite_khzBlind (mask val : BitVec 6) : KhzBlind (bundleWrite mask val) :=
  .ite (fun _ _ => .rfl) (fun _ _ => rfl) fun _ _ => rfl

theorem bundleRead_khzBlind : KhzBlind bundleRead :=
  .ite (fun _ _ => .rfl) (fun k s => samplePad_khzBlind s.islot.toNat k s) fun _ _ => rfl

/-! ### The commands -/

/-- The last line of most pseudocode. -/
theorem goZero_khzBlind : KhzBlind fun s => Run.go (0 : BitVec 32) s := fun _ _ => rfl

theorem setPins_khzBlind (sigs : List Signal) (c : CfgArgs) : KhzBlind (setPins sigs c) :=
  (require_khzBlind (c := isUnconfigured) (fun _ _ => rfl) _).andThen fun _ _ _ => rfl

theorem config_khzBlind (sigs : List Signal) (c : CfgArgs) : KhzBlind (config sigs c) :=
  (require_khzBlind (c := fun _ => c.argc == 0 || c.argc == sigCount sigs) (fun _ _ => rfl)
    _).andThen fun _ =>
  (when_khzBlind (c := fun _ => c.argc == sigCount sigs) (act := fun _ => setPins sigs c)
    (fun _ _ => rfl) (setPins_khzBlind sigs c)).andThen fun _ _ _ => rfl

/-- A primitive asks first whether its path is installed. -/
theorem guarded_khzBlind {c : State → Bool} (hc : ∀ k s, c (withKhz k s) = c s)
    {act : State → Run (BitVec 32)} (ha : KhzBlind act) :
    KhzBlind fun s => (require (c s) .errUnavailable s).andThen fun _ => act :=
  (require_khzBlind hc _).andThen fun _ => ha

theorem jtagWriteRun_khzBlind (tck tms tdi : Bool) : KhzBlind (jtagWriteRun tck tms tdi) :=
  guarded_khzBlind (c := jtagAvailable) (fun _ _ => rfl)
    ((bundleWrite_khzBlind _ _).andThen fun _ _ _ => rfl)

theorem jtagReadRun_khzBlind : KhzBlind jtagReadRun :=
  guarded_khzBlind (c := jtagAvailable) (fun _ _ => rfl)
    (bundleRead_khzBlind.andThen fun _ _ _ => rfl)

theorem jtagResetRun_khzBlind (trst srst : Bool) : KhzBlind (jtagResetRun trst srst) :=
  guarded_khzBlind (c := jtagAvailable) (fun _ _ => rfl) <|
    (when_khzBlind (fun _ _ => rfl) fun k s => bundleWrite_khzBlind _ _ k s).andThen fun _ =>
    (when_khzBlind (fun _ _ => rfl) fun k s => bundleWrite_khzBlind _ _ k s).andThen fun _ =>
    goZero_khzBlind

theorem jtagBlinkRun_khzBlind (on : Bool) : KhzBlind (jtagBlinkRun on) :=
  guarded_khzBlind (c := jtagBlinkAvailable) (fun _ _ => rfl)
    ((bundleWrite_khzBlind _ _).andThen fun _ => goZero_khzBlind)

theorem swdDriveRun_khzBlind (isOutput : Bool) : KhzBlind (swdDriveRun isOutput) :=
  guarded_khzBlind (c := swdAvailable) (fun _ _ => rfl) <|
    KhzBlind.andThen (fun k s => pinSetDir_khzBlind s.pa.swdio _ k s) fun _ => goZero_khzBlind

theorem swdLevels_khzBlind (clockFirst swclk swdio : Bool) :
    KhzBlind (swdLevels clockFirst swclk swdio) := by
  cases clockFirst
  · refine KhzBlind.andThen (act := fun s => pinSetLevel s.pa.swdio swdio s)
      (fun k s => pinSetLevel_khzBlind s.pa.swdio swdio k s) fun _ k s => ?_
    exact pinSetLevel_khzBlind s.pa.swclk swclk k s
  · refine KhzBlind.andThen (act := fun s => pinSetLevel s.pa.swclk swclk s)
      (fun k s => pinSetLevel_khzBlind s.pa.swclk swclk k s) fun _ k s => ?_
    exact pinSetLevel_khzBlind s.pa.swdio swdio k s

theorem swdWriteRun_khzBlind (swclk swdio : Bool) : KhzBlind (swdWriteRun swclk swdio) :=
  guarded_khzBlind (c := swdAvailable) (fun _ _ => rfl) <|
    KhzBlind.andThen (fun k s => swdLevels_khzBlind (clockGoesFirst s) swclk swdio k s)
      fun _ _ _ => rfl

theorem swdReadRun_khzBlind : KhzBlind swdReadRun :=
  guarded_khzBlind (c := swdAvailable) (fun _ _ => rfl) <|
    KhzBlind.andThen (fun k s => pinGetLevel_khzBlind s.pa.swdio k s) fun _ _ _ => rfl

theorem swdBlinkRun_khzBlind (on : Bool) : KhzBlind (swdBlinkRun on) :=
  guarded_khzBlind (c := swdBlinkAvailable) (fun _ _ => rfl) <|
    KhzBlind.andThen (fun k s => pinSetLevel_khzBlind s.pa.blink _ k s) fun _ => goZero_khzBlind

/-! ### INIT -/

theorem validate_khzBlind (j w : Bool) : KhzBlind (validate j w) :=
  .ite (fun _ _ => .rfl) (fun _ _ => rfl) <| .ite (fun _ _ => .rfl) (fun _ _ => rfl) <|
    .ite (fun _ _ => .rfl) (fun _ _ => rfl) fun _ _ => rfl

theorem setupJtagPins_khzBlind : KhzBlind setupJtagPins :=
  KhzBlind.andThen (fun k s => setOut_khzBlind s.pa.tdi _ k s) fun _ =>
  KhzBlind.andThen (fun k s => setOut_khzBlind s.pa.tck _ k s) fun _ k s =>
    setOut_khzBlind s.pa.tms _ k s

theorem allocBundles_khzBlind : KhzBlind allocBundles :=
  KhzBlind.andThen (.ite (fun _ _ => .rfl) (fun _ _ => rfl) fun _ _ => rfl) fun _ =>
  KhzBlind.andThen (.ite (fun _ _ => .rfl) (fun _ _ => rfl) fun _ _ => rfl) fun _ k s =>
    pinSetDir_khzBlind s.pa.tdo _ k s

theorem setupSwdPins_khzBlind : KhzBlind setupSwdPins :=
  KhzBlind.andThen (fun k s => setOut_khzBlind s.pa.swdio _ k s) fun _ k s =>
    setOut_khzBlind s.pa.swclk _ k s

theorem setupOptionalPins_khzBlind : KhzBlind setupOptionalPins :=
  (when_khzBlind (fun _ _ => rfl) fun k s => setOut_khzBlind s.pa.trst _ k s).andThen fun _ =>
  (when_khzBlind (fun _ _ => rfl) fun k s => setOut_khzBlind s.pa.srst _ k s).andThen fun _ =>
  when_khzBlind (fun _ _ => rfl) fun k s => setOut_khzBlind s.pa.blink _ k s

/-- The phases run from `VALIDATED`, which is not KHZ. -/
theorem setup_khzBlind (j w : Bool) : KhzBlind (setup j w) :=
  KhzBlind.andThen (fun k s => when_khzBlind (c := fun _ => j) (act := fun _ => setupJtagPins)
      (fun _ _ => rfl) setupJtagPins_khzBlind k { s with life := .validated }) fun _ =>
  (when_khzBlind (c := fun _ => j) (act := fun _ => allocBundles) (fun _ _ => rfl)
    allocBundles_khzBlind).andThen fun _ =>
  (when_khzBlind (c := fun _ => w) (act := fun _ => setupSwdPins) (fun _ _ => rfl)
    setupSwdPins_khzBlind).andThen fun _ =>
  setupOptionalPins_khzBlind.andThen fun _ _ _ => rfl

theorem initRun_khzBlind : KhzBlind initRun :=
  guarded_khzBlind (c := isUnconfigured) (fun _ _ => rfl) <|
    KhzBlind.andThen (fun k s => validate_khzBlind s.trJtag s.trSwd k s) fun _ k s =>
      setup_khzBlind s.trJtag s.trSwd k s

/-! ### Every command -/

/-- Every command but the two of the speed register is the answer of such pseudocode. -/
theorem exec_khzBlind {i : Instr} (hset : ∀ k, i ≠ .speedSet k) (hget : i ≠ .speedGet) :
    ∃ run : State → Run (BitVec 32), KhzBlind run ∧ ∀ s, exec i s = (run s).answer := by
  cases i with
  | speedSet k => exact absurd rfl (hset k)
  | speedGet => exact absurd rfl hget
  | jtagPins | jtagPinTck | jtagPinTms | jtagPinTdi | jtagPinTdo | jtagPinTrst | jtagPinSrst
  | jtagPinBlink | swdPins | swdPinSwclk | swdPinSwdio =>
    exact ⟨_, config_khzBlind _ _, fun s => rfl⟩
  | init => exact ⟨_, initRun_khzBlind, fun s => rfl⟩
  | quit => exact ⟨quitRun, fun _ _ => rfl, fun s => rfl⟩
  | jtagWrite tck tms tdi => exact ⟨_, jtagWriteRun_khzBlind tck tms tdi, fun s => rfl⟩
  | jtagRead => exact ⟨_, jtagReadRun_khzBlind, fun s => rfl⟩
  | jtagReset trst srst => exact ⟨_, jtagResetRun_khzBlind trst srst, fun s => rfl⟩
  | jtagBlink on => exact ⟨_, jtagBlinkRun_khzBlind on, fun s => rfl⟩
  | swdDrive isOutput => exact ⟨_, swdDriveRun_khzBlind isOutput, fun s => rfl⟩
  | swdWrite swclk swdio => exact ⟨_, swdWriteRun_khzBlind swclk swdio, fun s => rfl⟩
  | swdRead => exact ⟨_, swdReadRun_khzBlind, fun s => rfl⟩
  | swdBlink on => exact ⟨_, swdBlinkRun_khzBlind on, fun s => rfl⟩

section
variable {run : State → Run (BitVec 32)} (hrun : KhzBlind run) {s : State} (k : BitVec 32)
include hrun

theorem KhzBlind.answer_of_next {t : State} (h : (run s).answer = .next t) :
    (run (withKhz k s)).answer = .next (withKhz k t) := by
  rw [hrun k s]
  rcases answer_eq_next.mp h with ⟨d, u, hr, rfl⟩ | ⟨e, info, u, hr, rfl⟩ <;> rw [hr] <;> rfl

theorem KhzBlind.answer_of_fault {f : Fault} (h : (run s).answer = .fault f) :
    (run (withKhz k s)).answer = .fault f := by
  rw [hrun k s, answer_eq_fault.mp h]
  rfl

end

/-- `u` is `t` but for KHZ and, after SPEED_GET, the answer. -/
structure SameButKhz (i : Instr) (t u : State) : Prop where
  state : u = { t with khz := u.khz, responses := u.responses }
  responses : i ≠ .speedGet → u.responses = t.responses

theorem SameButKhz.kept {i : Instr} {t u : State} (h : SameButKhz i t u) :
    u.trace = t.trace ∧ u.dir = t.dir ∧ u.lvl = t.lvl ∧ u.delayCnt = t.delayCnt := by
  rw [h.state]
  exact ⟨rfl, rfl, rfl, rfl⟩

/-- A command that completes does so whatever KHZ holds, and does the same. -/
theorem exec_withKhz_of_next {i : Instr} {s t : State} (k : BitVec 32) (h : exec i s = .next t) :
    ∃ u, exec i (withKhz k s) = .next u ∧ SameButKhz i t u := by
  by_cases hset : ∃ k', i = .speedSet k'
  · obtain ⟨k', rfl⟩ := hset
    change execSpeedSet k' s = _ at h
    change ∃ u, execSpeedSet k' (withKhz k s) = _ ∧ _
    rw [execSpeedSet_eq] at h ⊢
    split_ifs at h ⊢ <;> cases h <;> exact ⟨_, rfl, rfl, fun _ => rfl⟩
  · by_cases hget : i = .speedGet
    · subst hget
      cases h
      exact ⟨_, rfl, rfl, fun hne => absurd rfl hne⟩
    · obtain ⟨run, hrun, hexec⟩ := exec_khzBlind (not_exists.mp hset) hget
      rw [hexec] at h
      exact ⟨withKhz k t, (hexec _).trans (hrun.answer_of_next k h), rfl, fun _ => rfl⟩

/-- A command that faults does so whatever KHZ holds, with the same fault. -/
theorem exec_withKhz_of_fault {i : Instr} {s : State} {f : Fault} (k : BitVec 32)
    (h : exec i s = .fault f) : exec i (withKhz k s) = .fault f := by
  have hset : ∀ k', i ≠ .speedSet k' := by
    rintro k' rfl
    exact speedSet_ne_fault k' h
  have hget : i ≠ .speedGet := by
    rintro rfl
    cases h
  obtain ⟨run, hrun, hexec⟩ := exec_khzBlind hset hget
  rw [hexec] at h ⊢
  exact hrun.answer_of_fault k h

end Sys2Proof.Machine
end

section
/-! SUPPORT. The statements of 43_speed.md on the speed register. -/

namespace Sys2Proof.Proofs

open Sys2Proof Sys2Proof.Machine

/-- Settles O24: SPEED_SET answers and writes KHZ at most; and no other pseudocode but SPEED_GET's
reads it. -/
theorem nominalSpeedMovesNoPin : Obligations.NominalSpeedMovesNoPin := by
  unfold Obligations.NominalSpeedMovesNoPin
  refine ⟨fun k s t h => ?_, fun i s k => ⟨fun f h => exec_withKhz_of_fault k h, fun t h => ?_⟩⟩
  · change execSpeedSet k s = _ at h
    rw [execSpeedSet_eq] at h
    split_ifs at h <;> cases h <;> rfl
  · obtain ⟨u, hu, hsame⟩ := exec_withKhz_of_next k h
    obtain ⟨htrace, hdir, hlvl, hdelay⟩ := hsame.kept
    exact ⟨u, hu, htrace, hdir, hlvl, hdelay, hsame.state, hsame.responses⟩

/-- Settles O22, by the two cases of SPEED_SET. -/
theorem speedSetRecordsOrRejects : Obligations.SpeedSetRecordsOrRejects := by
  unfold Obligations.SpeedSetRecordsOrRejects
  intro s k
  exact ⟨fun hk => (execSpeedSet_eq k s).trans (if_neg hk),
    fun hk => (execSpeedSet_eq k s).trans (if_pos hk)⟩

/-- Settles O23: the parameters of the machine are in bounds, so KHZ_RESET is not 0. -/
theorem speedGetAnswersTheNominalRate : Obligations.SpeedGetAnswersTheNominalRate := by
  unfold Obligations.SpeedGetAnswersTheNominalRate
  exact ⟨execSpeedGet_eq, rfl, khzReset_ne_zero config_params_wf⟩

end Sys2Proof.Proofs
end

section
/-! SUPPORT. The INITs that do not set a session up (spec 44_lifecycle R141, R144, R146, R152, R153,
60_exceptions R172, R174): outside UNCONFIGURED, past a failed validation, and with a bundle
refused. -/

namespace Sys2Proof.Machine

open Sys2Proof Sys2Proof.Claims

/-! ### The JTAG validator (R141) -/

section
variable {s : State}

theorem canOperateJtag_iff :
    canOperateJtag s = true ↔
      pinOutCapable s.params s.pa.tck = true ∧ pinOutCapable s.params s.pa.tms = true ∧
      pinValid s.params s.pa.tdi = true ∧
      (s.params.tdoCheck = .valid → pinValid s.params s.pa.tdo = true) ∧
      (s.params.tdoCheck = .outCapable → pinOutCapable s.params s.pa.tdo = true) := by
  cases htdo : s.params.tdoCheck <;> simp [canOperateJtag, htdo, and_assoc]

/-- Whichever predicate a signal takes, its pin is valid. -/
theorem pinValid_of_canOperateJtag (h : canOperateJtag s = true) :
    ∀ x ∈ [Signal.tck, .tms, .tdi, .tdo], pinValid s.params (s.pa.get x) = true := by
  obtain ⟨htck, htms, htdi, -⟩ := canOperateJtag_iff.mp h
  simpa [PinRegs.get] using ⟨pinValid_of_outCapable htck, pinValid_of_outCapable htms, htdi,
    tdo_valid_of_canOperate h⟩

theorem canOperateJtag_of_removed {x : Signal} (hx : x ∈ [Signal.tck, .tms, .tdi, .tdo]) :
    canOperateJtag { s with pa := s.pa.set x noPin } = false := by
  by_contra h
  have hvalid := pinValid_of_canOperateJtag (Bool.eq_true_of_not_eq_false h) x hx
  simp at hvalid

/-! ### INIT that only answers (R144, R152) -/

theorem exec_init_of_begun (hl : s.life ≠ .unconfigured) :
    exec .init s = .next (respond .errUnavailable 0 s) := by
  rcases execInit_cases s with ⟨-, h⟩ | ⟨hl', -⟩ | ⟨hl', -⟩ | ⟨hl', -⟩ | ⟨hl', -⟩
  · exact h
  all_goals exact absurd hl' hl

theorem exec_init_of_not_validated (hl : s.life = .unconfigured) (hv : ¬ Validated s) :
    exec .init s = .next (respond .errValidation (failedCategory s) s) := by
  rcases execInit_cases s with ⟨hl', -⟩ | ⟨-, -, h⟩ | ⟨-, hv', -⟩ | ⟨-, hv', -⟩ | ⟨-, hv', -⟩
  · exact absurd hl hl'
  · exact h
  all_goals exact absurd hv' hv

/-- The three categories of a validation failure, in the order they are looked for (92 D10). -/
theorem not_validated_of_no_transport (hj : s.trJtag = false) (hw : s.trSwd = false) :
    ¬ Validated s ∧ failedCategory s = 0 := by
  simp [Validated, failedCategory, hj, hw]

theorem not_validated_of_jtag (hj : s.trJtag = true) (hc : canOperateJtag s = false) :
    ¬ Validated s ∧ failedCategory s = 1 := by
  simp [Validated, failedCategory, hj, hc]

theorem not_validated_of_swd (hw : s.trSwd = true)
    (hjtag : s.trJtag = true → canOperateJtag s = true) (hc : canOperateSwd s = false) :
    ¬ Validated s ∧ failedCategory s = 2 := by
  have hcat : ¬ (s.trJtag = true ∧ canOperateJtag s = false) := fun ⟨hj, hbad⟩ => by
    simp [hjtag hj] at hbad
  simp [Validated, failedCategory, hw, hc, hcat]

/-! ### INIT with a bundle refused (R146, R153) -/

theorem exec_init_of_refused (hl : s.life = .unconfigured) (hv : Validated s)
    (hj : s.trJtag = true) (hc : AllCapable s.params [s.pa.tdi, s.pa.tck, s.pa.tms])
    (hg : s.allocOutOK = false ∨ s.allocInOK = false) :
    exec .init s = .next (respond .errResource (if s.allocOutOK = false then 1 else 2)
      (failedState (jtagPinsState { s with life := .validated }))) := by
  have hrefused : ¬ (s.allocOutOK = true ∧ s.allocInOK = true) := by
    simpa [or_iff_not_imp_left] using hg
  rcases execInit_cases s with ⟨hl', -⟩ | ⟨-, hv', -⟩ | ⟨-, -, -, -, ⟨ho, h⟩ | ⟨ho, -, h⟩⟩ |
    ⟨-, -, hg', -⟩ | ⟨-, -, hg', -⟩
  · exact absurd hl hl'
  · exact absurd hv hv'
  · rw [if_pos ho]
    exact h
  · rw [if_neg (by simp [ho])]
    exact h
  · exact absurd (hg' hj) hrefused
  · exact absurd (hg' hj hc) hrefused

theorem responseWord_errResource (c : Prop) [Decidable c] :
    responseWord .errResource (if c then 1 else 2) = if c then 0x0400000001 else 0x0400000002 := by
  split_ifs <;> rfl

theorem jtagPinsState_trace (s : State) :
    (jtagPinsState s).trace = s.trace ++ jtagSetupEvents s.pa := by
  simp [jtagPinsState, jtagSetupEvents]

theorem jtagPinsState_direction (s : State) (p : PinIdx) :
    (jtagPinsState s).direction p.toNat =
      if p ∈ [s.pa.tdi, s.pa.tck, s.pa.tms] then some .output else s.direction p.toNat := by
  simp only [jtagPinsState, setOutState_direction, BitVec.toNat_inj, ← ite_or_eq]
  exact if_congr (by simp [or_comm, or_left_comm]) rfl rfl

theorem jtagPinsState_level (s : State) (p : PinIdx) :
    (jtagPinsState s).level p.toNat =
      if p = s.pa.tms then true
      else if p = s.pa.tdi ∨ p = s.pa.tck then false
      else s.level p.toNat := by
  simp only [jtagPinsState, setOutState_level, BitVec.toNat_inj, or_comm (a := p = s.pa.tdi),
    ite_or_eq]

/-- The setup of the JTAG pins stands after the failure, and nothing else of INIT does. -/
theorem failedState_eq (s : State) :
    failedState (jtagPinsState { s with life := .validated }) = { s with
      life := .shutdown
      obAlloc := false
      ibAlloc := false
      oslot := #v[noPin, noPin, noPin, noPin, noPin, noPin]
      islot := noPin
      dir := (jtagPinsState s).dir
      lvl := (jtagPinsState s).lvl
      trace := s.trace ++ jtagSetupEvents s.pa } := by
  rw [← jtagPinsState_trace]
  rfl

end

/-! ### Who raises these errors (60_exceptions R172, R174) -/

section
variable {i : Instr} {s t : State} {r : RspWord}

theorem init_of_validationError (h : Completed i s t) (ha : Answers s t r)
    (hr : statusByte r = Status.errValidation.code) : i = .init := by
  obtain ⟨e, d, hwhy, rfl, -⟩ :=
    failsWith_of_answers h ha (by rw [hr]; decide) (by rw [hr]; decide)
  rw [statusByte_responseWord] at hr
  cases status_code_injective _ _ hr
  exact hwhy.1

theorem refused_of_resourceError (h : Completed i s t) (ha : Answers s t r)
    (hr : statusByte r = Status.errResource.code) :
    i = .init ∧ s.trJtag = true ∧ (s.allocOutOK = false ∨ s.allocInOK = false) := by
  have hstatus {st : Status} {d : BitVec 32} {u : State} (ha : Answers s (respond st d u) r) :
      st = .errResource :=
    status_code_injective _ _ ((status_of_respond ha).symm.trans hr)
  cases h with
  | initFailed _ _ _ _ hj _ hg => exact ⟨rfl, hj, hg.imp And.left fun hin => hin.2.1⟩
  | failed i s e d hwhy =>
    cases hstatus ha
    exact hwhy.elim
  | query | set | initOk | quit | speedSet | speedGet | jtagWrite | jtagRead | jtagReset
  | jtagBlink | swdDrive | swdWrite | swdRead | swdBlink => cases hstatus ha

end

end Sys2Proof.Machine
end

section
/-! SUPPORT. The statements of 44_lifecycle.md and 60_exceptions.md on an INIT that sets no session
up. -/

namespace Sys2Proof.Proofs

open Sys2Proof Sys2Proof.Machine Sys2Proof.Claims

/-- Settles O28: each of the four predicates asks for a valid pin, and a removed pin is not valid.
-/
theorem jtagValidatorChecksEachSignal : Obligations.JtagValidatorChecksEachSignal := by
  unfold Obligations.JtagValidatorChecksEachSignal
  intro s
  exact ⟨canOperateJtag_iff, fun x hx => canOperateJtag_of_removed hx⟩

/-- Settles O32: INIT asks for UNCONFIGURED first. -/
theorem initRunsOncePerSession : Obligations.InitRunsOncePerSession := by
  unfold Obligations.InitRunsOncePerSession
  intro s hl
  exact exec_init_of_begun hl

/-- Settles O27, by the three categories; among all that a command can answer, only a failed
validation has this status. -/
theorem validationFailureTouchesNothing : Obligations.ValidationFailureTouchesNothing := by
  unfold Obligations.ValidationFailureTouchesNothing
  refine ⟨fun s hl => ?_, fun i s t r h ha hr => init_of_validationError (exec_completed h) ha hr⟩
  have hfails {d : BitVec 32} (hbad : ¬ Validated s ∧ failedCategory s = d) :
      exec .init s = .next (respond .errValidation d s) :=
    hbad.2 ▸ exec_init_of_not_validated hl hbad.1
  exact ⟨fun hj hw => hfails (not_validated_of_no_transport hj hw),
    fun hj hc => hfails (not_validated_of_jtag hj hc),
    fun hw hjtag hc => hfails (not_validated_of_swd hw hjtag hc)⟩

/-- Settles O30: the failed allocation releases what it has and leaves the three pins as they were
set up. -/
theorem bundleRefusalEndsInShutdown : Obligations.BundleRefusalEndsInShutdown := by
  unfold Obligations.BundleRefusalEndsInShutdown
  refine ⟨fun s hl hv hj hc hg => ?_,
    fun i s t r h ha hr => refused_of_resourceError (exec_completed h) ha hr⟩
  refine ⟨_, exec_init_of_refused hl hv hj hc hg, ?_, jtagPinsState_direction s,
    jtagPinsState_level s⟩
  rw [failedState_eq, respond, responseWord_errResource]

end Sys2Proof.Proofs
end

section
/-! SUPPORT. The remaining JTAG primitives (spec 41_jtag_primitives R100, R103, R104): a bundle
write of one slot, its event and its latch; the lines of JTAG_RESET; and the answer outside a JTAG
session. -/

namespace Sys2Proof.Machine

open Sys2Proof Sys2Proof.Claims

/-! ### A bundle write of one slot (20_memory R44) -/

/-- The selection is the present slots among the writes, in slot order. -/
theorem selectedSlots_eq_filterMap (oslot : Vector PinIdx 6) (mask val : BitVec 6) :
    selectedSlots oslot mask val =
      (slotWrites mask val).filterMap fun e =>
        if oslot[e.1] = noPin then none else some (oslot[e.1].toNat, e.2) := by
  have hall : ([0, 1, 2, 3, 4, 5] : List (Fin 6)) = List.finRange 6 := by decide
  rw [selectedSlots, slotWrites, List.filterMap_map, List.filterMap_filter, hall]
  congr 1
  funext i
  by_cases hp : oslot[i] = noPin <;> simp [hp, -Fin.getElem_fin]

section
variable {s : State} {mask val : BitVec 6} {i : Fin 6} {b : Bool}

theorem bundleUpdates_of_one (h : slotWrites mask val = [(i, b)]) :
    bundleUpdates s mask val =
      if s.oslot[i] = noPin then [] else [(s.oslot[i].toNat, b)] := by
  rw [bundleUpdates, selectedSlots_eq_filterMap, h]
  by_cases hp : s.oslot[i] = noPin
  · simp [hp, PinMap.setAll, -Fin.getElem_fin]
  · simp [hp, PinMap.setAll, PinMap.set, settledLevel, -Fin.getElem_fin]

theorem bundleState_trace_of_one (h : slotWrites mask val = [(i, b)]) :
    (bundleState mask val s).trace = s.trace ++ [oneSlotEvent s i b] := by
  rw [oneSlotEvent, ← bundleUpdates_of_one h]
  rfl

theorem bundleState_level_of_one (h : slotWrites mask val = [(i, b)]) (p : Nat) :
    (bundleState mask val s).level p = afterSlot s i b p (s.level p) := by
  rw [bundleState_level, bundleUpdates_of_one h, afterSlot]
  by_cases hp : s.oslot[i] = noPin
  · simp [hp, -Fin.getElem_fin]
  · by_cases hq : p = s.oslot[i].toNat <;> simp [hp, hq, PinMap.get, -Fin.getElem_fin]

end

/-- The slot of each reset line and of the indicator (10_state R20). -/
theorem slotWrites_trst : ∀ b : Bool, slotWrites maskTrst (bitAt 3 b) = [(3, b)] := by decide

theorem slotWrites_srst : ∀ b : Bool, slotWrites maskSrst (bitAt 4 b) = [(4, b)] := by decide

theorem slotWrites_blink : ∀ b : Bool, slotWrites maskBlink (bitAt 5 b) = [(5, b)] := by decide

/-! ### JTAG_RESET (R103) -/

theorem lineState_pa (sig : Signal) (mask val : BitVec 6) (s : State) :
    (lineState sig mask val s).pa = s.pa := by
  obtain ⟨l, tr, hframe⟩ := lineState_frame sig mask val s
  rw [hframe]

section
variable {s : State} {mask val : BitVec 6} {i : Fin 6} {b : Bool}

theorem lineState_trace_of_one (h : slotWrites mask val = [(i, b)]) (sig : Signal) :
    (lineState sig mask val s).trace =
      s.trace ++ if s.pa.get sig ≠ noPin then [oneSlotEvent s i b] else [] := by
  by_cases hp : s.pa.get sig = noPin
  · simp [lineState, PinRegs.assigned, hp]
  · simp [lineState, PinRegs.assigned, hp, bundleState_trace_of_one h]

theorem lineState_level_of_one (h : slotWrites mask val = [(i, b)]) (sig : Signal) (p : Nat) :
    (lineState sig mask val s).level p =
      if s.pa.get sig ≠ noPin then afterSlot s i b p (s.level p) else s.level p := by
  by_cases hp : s.pa.get sig = noPin
  · simp [lineState, PinRegs.assigned, hp]
  · simp [lineState, PinRegs.assigned, hp, bundleState_level_of_one h]

end

section
variable (trst srst : Bool) (s : State)

theorem jtagResetState_trace :
    (jtagResetState trst srst s).trace = s.trace ++
      (if s.pa.trst ≠ noPin then
        [oneSlotEvent s 3 (resetLevel s.params.trstAssertLevel trst)] else []) ++
      (if s.pa.srst ≠ noPin then
        [oneSlotEvent s 4 (resetLevel s.params.srstAssertLevel srst)] else []) := by
  rw [jtagResetState, lineState_trace_of_one (slotWrites_srst _),
    lineState_trace_of_one (slotWrites_trst _), lineState_pa]
  simp only [oneSlotEvent, lineState_oslot]
  rfl

theorem jtagResetState_level (p : Nat) :
    (jtagResetState trst srst s).level p =
      let afterTrst := if s.pa.trst ≠ noPin then
        afterSlot s 3 (resetLevel s.params.trstAssertLevel trst) p (s.level p) else s.level p
      if s.pa.srst ≠ noPin then
        afterSlot s 4 (resetLevel s.params.srstAssertLevel srst) p afterTrst else afterTrst := by
  rw [jtagResetState, lineState_level_of_one (slotWrites_srst _),
    lineState_level_of_one (slotWrites_trst _), lineState_pa]
  simp only [afterSlot, lineState_oslot]
  rfl

/-- JTAG_RESET's frame with its latches and events named. -/
theorem jtagResetState_eq :
    jtagResetState trst srst s = { s with
      lvl := (jtagResetState trst srst s).lvl
      trace := (jtagResetState trst srst s).trace } := by
  obtain ⟨l, tr, hframe⟩ := jtagResetState_frame trst srst s
  rw [hframe]

end

/-! ### Inside and outside a JTAG session (R100, R104) -/

section
variable {s : State}

theorem exec_jtagReset_of_available (ha : jtagAvailable s = true) (ho : s.obAlloc = true)
    (trst srst : Bool) :
    exec (.jtagReset trst srst) s = .next (respond .ok 0 (jtagResetState trst srst s)) :=
  (execJtagReset_eq trst srst s).trans ((if_pos ha).trans (if_pos (.inl ho)))

theorem exec_jtagBlink_of_available (ha : jtagBlinkAvailable s = true) (ho : s.obAlloc = true)
    (on : Bool) :
    exec (.jtagBlink on) s = .next (respond .ok 0 (bundleState maskBlink (bitAt 5 on) s)) :=
  (execJtagBlink_eq on s).trans ((if_pos ha).trans (if_pos ho))

theorem exec_jtag_of_unavailable (ha : ¬ jtagAvailable s = true) :
    (∀ tck tms tdi,
      exec (.jtagWrite tck tms tdi) s = .next (respond .errUnavailable 0 s)) ∧
    exec .jtagRead s = .next (respond .errUnavailable 0 s) ∧
    (∀ trst srst, exec (.jtagReset trst srst) s = .next (respond .errUnavailable 0 s)) :=
  ⟨fun tck tms tdi => (execJtagWrite_eq tck tms tdi s).trans (if_neg ha),
    (execJtagRead_eq s).trans (if_neg ha),
    fun trst srst => (execJtagReset_eq trst srst s).trans (if_neg ha)⟩

theorem exec_jtagBlink_of_unavailable (ha : ¬ jtagBlinkAvailable s = true) (on : Bool) :
    exec (.jtagBlink on) s = .next (respond .errUnavailable 0 s) :=
  (execJtagBlink_eq on s).trans (if_neg ha)

end

end Sys2Proof.Machine
end

section
/-! SUPPORT. The statements of 41_jtag_primitives.md on the reset lines, the indicator and the
missing path. -/

namespace Sys2Proof.Proofs

open Sys2Proof Sys2Proof.Machine Sys2Proof.Claims

/-- Settles O41: two bundle writes of one slot each, made where the line is configured. -/
theorem jtagResetDrivesEachConfiguredLine : Obligations.JtagResetDrivesEachConfiguredLine := by
  unfold Obligations.JtagResetDrivesEachConfiguredLine
  intro s trst srst hl hj ho
  exact ⟨_, exec_jtagReset_of_available (jtagAvailable_iff.mpr ⟨hl, hj⟩) ho trst srst,
    jtagResetState_trace trst srst s, jtagResetState_level trst srst s,
    congrArg (respond .ok 0) (jtagResetState_eq trst srst s)⟩

/-- Settles O42: one bundle write of slot 5. -/
theorem jtagBlinkDrivesTheIndicator : Obligations.JtagBlinkDrivesTheIndicator := by
  unfold Obligations.JtagBlinkDrivesTheIndicator
  intro s on hl hj hp ho
  exact ⟨_, exec_jtagBlink_of_available (jtagBlinkAvailable_iff.mpr ⟨hl, hj, hp⟩) ho on,
    bundleState_trace_of_one (slotWrites_blink on),
    bundleState_level_of_one (slotWrites_blink on), rfl⟩

/-- Settles O43: every JTAG primitive asks for its path, and JTAG_BLINK for its pin, first. -/
theorem jtagPrimitivesNeedTheirPath : Obligations.JtagPrimitivesNeedTheirPath := by
  unfold Obligations.JtagPrimitivesNeedTheirPath
  intro s unavailable
  exact ⟨fun h => exec_jtag_of_unavailable (mt jtagAvailable_iff.mp h),
    fun h on => exec_jtagBlink_of_unavailable (mt jtagBlinkAvailable_iff.mp h) on⟩

end Sys2Proof.Proofs
end

section
/-! SUPPORT. The SWD primitives (spec 42_swd_primitives R115 to R119): each inside an SWD session,
the two writes of SWD_WRITE on one pin, and the answer outside a session. -/

namespace Sys2Proof.Machine

open Sys2Proof Sys2Proof.Claims

/-! ### Inside and outside an SWD session (R115, R119) -/

section
variable {s : State}

theorem exec_swdDrive_of_available (ha : swdAvailable s = true)
    (hv : pinValid s.params s.pa.swdio = true) {isOutput : Bool}
    (hc : isOutput = true → pinOutCapable s.params s.pa.swdio = true) :
    exec (.swdDrive isOutput) s =
      .next (respond .ok 0 (dirState s.pa.swdio (swdDirection isOutput) s)) := by
  have hcapable : ¬ (isOutput = true ∧ pinOutCapable s.params s.pa.swdio = false) :=
    fun ⟨hout, hbad⟩ => by simp [hc hout] at hbad
  change execSwdDrive isOutput s = _
  rw [execSwdDrive_eq, if_pos ha, if_neg (by simp [hv]), if_neg hcapable]

theorem exec_swdRead_of_available (ha : swdAvailable s = true)
    (hv : pinValid s.params s.pa.swdio = true) :
    exec .swdRead s = .next (respond .ok (zext32 (answerSample s s.pa.swdio.toNat).1)
      { s with
        env := (answerSample s s.pa.swdio.toNat).2
        trace := s.trace ++ [.smp s.pa.swdio.toNat (answerSample s s.pa.swdio.toNat).1] }) :=
  (execSwdRead_eq s).trans ((if_pos ha).trans (if_pos hv))

theorem exec_swdBlink_of_available (ha : swdBlinkAvailable s = true)
    (hv : pinValid s.params s.pa.blink = true) (on : Bool) :
    exec (.swdBlink on) s = .next (respond .ok 0 (levelState s.pa.blink on s)) :=
  (execSwdBlink_eq on s).trans ((if_pos ha).trans (if_pos hv))

theorem exec_swd_of_unavailable (ha : ¬ swdAvailable s = true) :
    (∀ isOutput, exec (.swdDrive isOutput) s = .next (respond .errUnavailable 0 s)) ∧
    (∀ swclk swdio,
      exec (.swdWrite swclk swdio) s = .next (respond .errUnavailable 0 s)) ∧
    exec .swdRead s = .next (respond .errUnavailable 0 s) :=
  ⟨fun isOutput => (execSwdDrive_eq isOutput s).trans (if_neg ha),
    fun swclk swdio => (execSwdWrite_eq swclk swdio s).trans (if_neg ha),
    (execSwdRead_eq s).trans (if_neg ha)⟩

theorem exec_swdBlink_of_unavailable (ha : ¬ swdBlinkAvailable s = true) (on : Bool) :
    exec (.swdBlink on) s = .next (respond .errUnavailable 0 s) :=
  (execSwdBlink_eq on s).trans (if_neg ha)

/-! ### The two writes of SWD_WRITE (R117) -/

/-- The parameter fixes the order, or leaves it to a draw at every SWD_WRITE. -/
theorem clockGoesFirst_by_order :
    (s.params.swdWriteOrder = .clockFirst → clockGoesFirst s = true) ∧
    (s.params.swdWriteOrder = .dataFirst → clockGoesFirst s = false) ∧
    (s.params.swdWriteOrder = .either →
      clockGoesFirst s = Config.swdClockFirst s.epoch s.trace) :=
  ⟨fun h => by simp [clockGoesFirst, h], fun h => by simp [clockGoesFirst, h],
    fun h => by simp [clockGoesFirst, h]⟩

theorem swdLevelsState_trace (clockFirst swclk swdio : Bool) :
    (swdLevelsState clockFirst swclk swdio s).trace = s.trace ++
      if clockFirst then [.drv [(s.pa.swclk.toNat, swclk)], .drv [(s.pa.swdio.toNat, swdio)]]
      else [.drv [(s.pa.swdio.toNat, swdio)], .drv [(s.pa.swclk.toNat, swclk)]] := by
  cases clockFirst <;> exact List.append_assoc _ _ _

/-- On one pin the later write wins. -/
theorem swdLevelsState_level_of_eq (heq : s.pa.swclk = s.pa.swdio)
    (clockFirst swclk swdio : Bool) :
    (swdLevelsState clockFirst swclk swdio s).level s.pa.swclk.toNat =
      if clockFirst then swdio else swclk := by
  cases clockFirst <;> simp [swdLevelsState, heq]

theorem swdLevelsState_delayCnt (clockFirst swclk swdio : Bool) :
    (swdLevelsState clockFirst swclk swdio s).delayCnt = s.delayCnt := by
  cases clockFirst <;> rfl

/-- The events of SWD_WRITE: its two level writes, then the delay. -/
theorem swdWrite_trace (clockFirst swclk swdio : Bool) :
    (applyDelay (swdLevelsState clockFirst swclk swdio s)).trace = s.trace ++
      (if clockFirst then [.drv [(s.pa.swclk.toNat, swclk)], .drv [(s.pa.swdio.toNat, swdio)]]
        else [.drv [(s.pa.swdio.toNat, swdio)], .drv [(s.pa.swclk.toNat, swclk)]]) ++
      [.dly s.delayCnt] := by
  rw [applyDelay_trace, swdLevelsState_trace, swdLevelsState_delayCnt]

/-- SWD_WRITE's frame with its latches and events named. -/
theorem swdLevelsState_eq (clockFirst swclk swdio : Bool) :
    swdLevelsState clockFirst swclk swdio s = { s with
      lvl := (swdLevelsState clockFirst swclk swdio s).lvl
      trace := (swdLevelsState clockFirst swclk swdio s).trace } := by
  cases clockFirst <;> rfl

end

end Sys2Proof.Machine
end

section
/-! SUPPORT. The statements of 42_swd_primitives.md: the four primitives and the missing path. -/

namespace Sys2Proof.Proofs

open Sys2Proof Sys2Proof.Machine Sys2Proof.Claims

/-- Settles O44: one `PinSetDir` on SWDIO. -/
theorem swdDriveSwitchesSwdio : Obligations.SwdDriveSwitchesSwdio := by
  unfold Obligations.SwdDriveSwitchesSwdio
  intro s isOutput hl hw hv hc d
  exact ⟨_, exec_swdDrive_of_available (swdAvailable_iff.mpr ⟨hl, hw⟩) hv hc, rfl,
    dirState_direction s.pa.swdio d s, dirState_level s.pa.swdio d s, rfl⟩

/-- Settles O45: two level writes in the order the parameter or the draw gives, then the delay. -/
theorem swdWriteSetsBothLatches : Obligations.SwdWriteSetsBothLatches := by
  unfold Obligations.SwdWriteSetsBothLatches
  intro s swclk swdio hl hw hc hd
  obtain ⟨hclock, hdata, heither⟩ := clockGoesFirst_by_order (s := s)
  refine ⟨_, clockGoesFirst s,
    exec_swdWrite_of_available (swdAvailable_iff.mpr ⟨hl, hw⟩) hc hd swclk swdio,
    hclock, hdata, heither, swdWrite_trace (clockGoesFirst s) swclk swdio,
    fun hne => ?apart, fun heq => ?shared, fun p hclk hdio => ?other, ?frame⟩
  case apart =>
    have hlevel := swdLevelsState_level_of_ne hne (clockGoesFirst s) swclk swdio
    have hdiff := pinIdx_toNat_ne hne.symm
    exact ⟨(hlevel _).trans (if_pos rfl), (hlevel _).trans ((if_neg hdiff).trans (if_pos rfl))⟩
  case shared => exact swdLevelsState_level_of_eq heq (clockGoesFirst s) swclk swdio
  case other =>
    exact not_imp_comm.mp pin_of_swdLevelsState_level_ne (not_or.mpr ⟨hclk, hdio⟩)
  case frame =>
    rw [swdLevelsState_eq]
    rfl

/-- Settles O46: the command's answer is the sample of SWDIO, which every environment gives. -/
theorem swdReadSamplesSwdio : Obligations.SwdReadSamplesSwdio := by
  unfold Obligations.SwdReadSamplesSwdio
  intro s hl hw hv
  refine ⟨_, _, answerSample_gives s s.pa.swdio.toNat, ?_⟩
  rw [exec_swdRead_of_available (swdAvailable_iff.mpr ⟨hl, hw⟩) hv, respond,
    responseWord_ok_zext32]

/-- Settles O47: one `PinSetLevel` on the indicator. -/
theorem swdBlinkDrivesTheIndicator : Obligations.SwdBlinkDrivesTheIndicator := by
  unfold Obligations.SwdBlinkDrivesTheIndicator
  intro s on hl hw hp hv
  exact ⟨_, exec_swdBlink_of_available (swdBlinkAvailable_iff.mpr ⟨hl, hw, hp⟩) hv on, rfl,
    levelState_level s.pa.blink on s, rfl⟩

/-- Settles O48: every SWD primitive asks for its path, and SWD_BLINK for its pin, first. -/
theorem swdPrimitivesNeedTheirPath : Obligations.SwdPrimitivesNeedTheirPath := by
  unfold Obligations.SwdPrimitivesNeedTheirPath
  intro s unavailable
  exact ⟨fun h => exec_swd_of_unavailable (mt swdAvailable_iff.mp h),
    fun h on => exec_swdBlink_of_unavailable (mt swdBlinkAvailable_iff.mp h) on⟩

end Sys2Proof.Proofs
end

section
/-! SUPPORT. The busy-wait (spec 43_speed R132): which command ends with a delay event, and that no
other event of any command is one. -/

namespace Sys2Proof.Machine

open Sys2Proof Sys2Proof.Claims

/-- The two commands that end with the busy-wait. -/
def EndsWithDelay (i : Instr) : Prop :=
  (∃ a b c, i = .jtagWrite a b c) ∨ ∃ a b, i = .swdWrite a b

/-- No event of the list is a busy-wait. -/
def NoDelay (evs : List Event) : Prop := ∀ n, Event.dly n ∉ evs

theorem noDelay_nil : NoDelay [] := fun _ => List.not_mem_nil

theorem NoDelay.append {evs evs' : List Event} (h : NoDelay evs) (h' : NoDelay evs') :
    NoDelay (evs ++ evs') := fun n hmem => (List.mem_append.mp hmem).elim (h n) (h' n)

theorem NoDelay.ite {evs evs' : List Event} {c : Prop} [Decidable c] (h : NoDelay evs)
    (h' : NoDelay evs') : NoDelay (if c then evs else evs') := by
  split_ifs
  · exact h
  · exact h'

/-! ### The events of INIT (R145 to R148) -/

theorem setOutEvents_noDelay (p : PinIdx) (b : Bool) : NoDelay (setOutEvents p b) := by
  simp [NoDelay, setOutEvents]

theorem jtagSetupEvents_noDelay (pa : PinRegs) : NoDelay (jtagSetupEvents pa) :=
  ((setOutEvents_noDelay _ _).append (setOutEvents_noDelay _ _)).append (setOutEvents_noDelay _ _)

theorem optionalEvents_noDelay (p : PinIdx) (b : Bool) : NoDelay (optionalEvents p b) :=
  noDelay_nil.ite (setOutEvents_noDelay p b)

theorem initEvents_noDelay (j w : Bool) (s : State) : NoDelay (initEvents j w s) :=
  have hjtag := (jtagSetupEvents_noDelay s.pa).append
    (evs' := [.dir s.pa.tdo.toNat .input]) (by simp [NoDelay])
  have hswd :=
    (setOutEvents_noDelay s.pa.swdio false).append (setOutEvents_noDelay s.pa.swclk false)
  ((((hjtag.ite noDelay_nil).append (hswd.ite noDelay_nil)).append
    (optionalEvents_noDelay _ _)).append (optionalEvents_noDelay _ _)).append
    (optionalEvents_noDelay _ _)

/-! ### Every command -/

theorem not_endsWithDelay_of_config {i : Instr} {x : List Signal × CfgArgs}
    (h : configCommand i = some x) : ¬ EndsWithDelay i := by
  rintro (⟨a, b, c, rfl⟩ | ⟨a, b, rfl⟩) <;> cases h

/-- An error is not the answer OK. -/
theorem FailsWith.not_answers_ok {i : Instr} {s : State} {e : Status} {d : BitVec 32}
    (h : FailsWith i s e d) : ¬ Answers s (respond e d s) 0x0000000000 := by
  intro ha
  cases status_code_injective .ok e (status_of_respond ha)
  exact h

/-- What a command that completes adds to TRACE: events that are no delay, and, after a JTAG_WRITE
and an SWD_WRITE that answer OK, one delay. -/
theorem completed_delay {i : Instr} {s t : State} (h : Completed i s t) :
    ∃ evs, NoDelay evs ∧
      ((t.trace = s.trace ++ evs ∧ (EndsWithDelay i → ¬ Answers s t 0x0000000000)) ∨
        (t.trace = s.trace ++ evs ++ [.dly s.delayCnt] ∧ evs ≠ [] ∧ EndsWithDelay i)) := by
  cases h with
  | failed i s e d hwhy =>
    exact ⟨[], noDelay_nil, .inl ⟨(List.append_nil _).symm, fun _ => hwhy.not_answers_ok⟩⟩
  | query i sigs c s hcfg | set i sigs c s hcfg =>
    exact ⟨[], noDelay_nil, .inl ⟨(List.append_nil _).symm,
      fun hi => absurd hi (not_endsWithDelay_of_config hcfg)⟩⟩
  | jtagWrite s tck tms tdi =>
    exact ⟨[.drv _], by simp [NoDelay], .inr ⟨rfl, by simp, .inl ⟨tck, tms, tdi, rfl⟩⟩⟩
  | swdWrite s swclk swdio =>
    refine ⟨_, ?_, .inr ⟨swdWrite_trace (clockGoesFirst s) swclk swdio, ?_,
      .inr ⟨swclk, swdio, rfl⟩⟩⟩
    · exact NoDelay.ite (by simp [NoDelay]) (by simp [NoDelay])
    · split_ifs <;> simp
  | initFailed s =>
    exact ⟨_, jtagSetupEvents_noDelay s.pa,
      .inl ⟨jtagPinsState_trace { s with life := .validated }, by simp [EndsWithDelay]⟩⟩
  | initOk s =>
    exact ⟨_, initEvents_noDelay s.trJtag s.trSwd s,
      .inl ⟨initState_trace _ _ s, by simp [EndsWithDelay]⟩⟩
  | quit | speedSet | speedGet =>
    exact ⟨[], noDelay_nil, .inl ⟨(List.append_nil _).symm, by simp [EndsWithDelay]⟩⟩
  | jtagReset s trst srst =>
    refine ⟨_, ?_, .inl ⟨(jtagResetState_trace trst srst s).trans (List.append_assoc _ _ _),
      by simp [EndsWithDelay]⟩⟩
    exact NoDelay.append (.ite (by simp [NoDelay, oneSlotEvent]) noDelay_nil)
      (.ite (by simp [NoDelay, oneSlotEvent]) noDelay_nil)
  | jtagBlink | jtagRead | swdRead | swdDrive | swdBlink =>
    exact ⟨[_], by simp [NoDelay], .inl ⟨rfl, by simp [EndsWithDelay]⟩⟩

end Sys2Proof.Machine
end

section
/-! SUPPORT. The statement of 43_speed.md on the busy-wait. -/

namespace Sys2Proof.Proofs

open Sys2Proof Sys2Proof.Machine

/-- Settles O55: only the two writes end with the delay, and they do whenever they answer OK. -/
theorem delayFollowsTheTwoWritesOnly : Obligations.DelayFollowsTheTwoWritesOnly := by
  unfold Obligations.DelayFollowsTheTwoWritesOnly
  intro i s t h
  obtain ⟨hdelay, -⟩ := (exec_written h).unwritten
  obtain ⟨evs, hevs, ⟨htrace, hok⟩ | ⟨htrace, hne, hi⟩⟩ := completed_delay (exec_completed h)
  · exact ⟨hdelay, evs, hevs, .inl htrace, fun hi ha => absurd ha (hok hi)⟩
  · exact ⟨hdelay, evs, hevs, .inr ⟨htrace, hne, hi⟩, fun _ _ => htrace⟩

end Sys2Proof.Proofs
end
